-- ==== Sys2Proof/Word.lean ====
section
/-! DEFINITION. The word types of the TSDL block (00_scope.md R11, R12): every quantity is unsigned, bit 0 is the
least significant bit. -/

namespace Sys2Proof

/-- A pattern, a frame, a port mask, a serial byte (00_scope.md R10: eight bits). -/
abbrev Byte := BitVec 8

/-- An analog sample, 0 to 1023 (30_encoding.md R85). -/
abbrev Sample := BitVec 10

/-- The container of `CNT`, `RELOAD`, their operands, and the host's `elapsed` and `periodTicks`. `CNT` and `RELOAD`
use its low `W_CNT` bits (10_state.md R23, R24; log 5), `elapsed` and `periodTicks` its low `W_ELAPSED` bits
(44_host_scheduler_fsm.md R232; log 24). -/
abbrev Count := BitVec 32

/-- An operation word (30_encoding.md R86). -/
abbrev OpWord := BitVec 40

/-- The bits of a `DIR4` (30_encoding.md R81). -/
abbrev Nibble := BitVec 4

/-- A bit position of the eight-bit output port, or an analog channel number (00_scope.md R10: 0 to 7). -/
abbrev Line := Fin 8

end Sys2Proof
end

