-- ==== Sys2Proof/Syntax.lean ====
section
/-! DEFINITION. The sixteen operations of the block as one inductive type (30_encoding.md R90): the spec asks a Lean
model to carry operations so, and the 40-bit word is transport only. -/

namespace Sys2Proof

/-- The five mutually exclusive directions (00_scope.md R17). -/
inductive Direction where
  | neutral
  | up
  | down
  | left
  | right
  deriving DecidableEq, Repr

/-- One constructor per row of spec/opcode_table.json. -/
inductive Instr where
  /-- `ARM M` (40_tick_source.md R111). -/
  | arm (m : Count)
  /-- `DISARM` (R112). -/
  | disarm
  /-- `SETPERIOD M` (R113). -/
  | setPeriod (m : Count)
  /-- `POLL` (R114). -/
  | poll
  /-- `ACK` (R115). -/
  | ack
  /-- `SEND pattern` (41_shift_out.md R141). -/
  | send (pattern : Byte)
  /-- `CLASSIFY x, y` (42_direction_decoder.md R172). -/
  | classify (x y : Sample)
  /-- `SAMPLE_DIR` (R176). -/
  | sampleDir
  /-- `ENCODE dir, f` (43_link_codec.md R191). -/
  | encode (d : Direction) (f : Bool)
  /-- `DECODE b` (R194). -/
  | decode (b : Byte)
  /-- `TRYSEND b` (R199). -/
  | trySend (b : Byte)
  /-- `TRYRECEIVE` (R203). -/
  | tryReceive
  /-- `FLUSH` (R204). -/
  | flush
  /-- `CMP_EVENT`, a step of the interrupt context (40_tick_source.md R118). -/
  | cmpEvent
  /-- `RX_ARRIVE b`, a step of the serial hardware (43_link_codec.md R205). -/
  | rxArrive (b : Byte)
  /-- `TX_DONE`, a step of the serial hardware (R201). -/
  | txDone
  deriving DecidableEq, Repr

/-- The class of an operation (30_encoding.md R86, R90): true for a step the environment takes. -/
def Instr.isEnvironment : Instr → Bool
  | .cmpEvent => true
  | .rxArrive _ => true
  | .txDone => true
  | .arm _ => false
  | .disarm => false
  | .setPeriod _ => false
  | .poll => false
  | .ack => false
  | .send _ => false
  | .classify _ _ => false
  | .sampleDir => false
  | .encode _ _ => false
  | .decode _ => false
  | .trySend _ => false
  | .tryReceive => false
  | .flush => false

end Sys2Proof
end

