-- ==== Sys2Proof/Config.lean ====
section
/-! DEFINITION. What an implementation and a run fix (00_scope.md R10, 10_state.md R41) and the free values the spec
leaves under no law (93_implementation_defined.md U4, U13). -/

namespace Sys2Proof

/-- States of the Direction FSM (44_host_scheduler_fsm.md R242). -/
inductive DirState where
  | start
  | movingRight
  | movingLeft
  | holding
  deriving DecidableEq, Repr

/-- One row of the Direction FSM's transition table, which the spec leaves a parameter (R242, D38): in state `source`, on
`input`, the next state is `target`. DESIGN CHOICE (log 15): the table is a list of rows. -/
structure DirEdge where
  source : DirState
  input  : Direction
  target : DirState
  deriving DecidableEq, Repr

/-- What an output action of the Direction FSM does to the pattern (R243), before showing it. -/
inductive PatternMove where
  | keep
  | left
  | right
  deriving DecidableEq, Repr

/-- The Moore output of each state of the Direction FSM (R240). The spec fixes the two moves and not which state makes
which (91_not_in_source.md N9), so it is a parameter. DESIGN CHOICE (log 15). -/
structure DirOutputs where
  start       : PatternMove
  movingRight : PatternMove
  movingLeft  : PatternMove
  holding     : PatternMove
  deriving DecidableEq, Repr

/-- What a registered task advances: the Stick/Link FSM (R244), the Direction FSM (R242), or neither: a task of the host
the spec names and does not specify (91_not_in_source.md N27). DESIGN CHOICE (log 26): it touches nothing of the model. -/
inductive TaskAction where
  | stickLink
  | direction
  | other
  deriving DecidableEq, Repr

/-- A task as the host registers it at startup (R232). -/
structure TaskSpec where
  periodTicks : Count
  action      : TaskAction
  deriving DecidableEq, Repr

/-- The node's role (R247, 60_exceptions.md R272); a display node takes its input from the serial link or from its own
analog axes. -/
inductive Role where
  | sender
  | displaySerial
  | displayAnalog
  deriving DecidableEq, Repr

/-- The parameters of a run that some rule reads (00_scope.md R10; host: R233, R242, R293). No step changes them. -/
structure Params where
  /-- `W_CNT`, width of `CNT` and `RELOAD`, 1 to 32 (D2). -/
  wCnt : Nat
  /-- `POS_SER` (D13). -/
  posSer : Line
  /-- `POS_SRCLK` (D13). -/
  posSrclk : Line
  /-- `POS_RCLK` (D13). -/
  posRclk : Line
  /-- `POS_CLR` (D13). -/
  posClr : Line
  /-- `HAS_CLR` (D16). -/
  hasClr : Bool
  /-- `RX_READ_CLEARS` (D24). -/
  rxReadClears : Bool
  /-- `CH_X`, OPEN (D26). -/
  chX : Line
  /-- `CH_Y`, OPEN (D26). -/
  chY : Line
  /-- `BTN_PIN`, OPEN (D26). -/
  btnPin : Nat
  /-- `BTN_ACTIVE`, OPEN (D26). -/
  btnActive : Bool
  /-- The node's role (44_host_scheduler_fsm.md R247). -/
  role : Role
  /-- The operand of the `ARM` the host issues at boot (70_reset_and_hazards.md R293 (3)). -/
  armPeriod : Count
  /-- `TICK_INC`, OPEN (D31). -/
  tickInc : Count
  /-- `W_ELAPSED`, width of `elapsed` and `periodTicks` (D31; range: log 24). -/
  wElapsed : Nat
  /-- The tasks the host registers, in registration order (R231, R233). -/
  tasks : List TaskSpec
  /-- The Direction FSM's transition table (D38). -/
  dirTable : List DirEdge
  /-- The Direction FSM's output (log 15). -/
  dirOutputs : DirOutputs
  /-- The display node's first pattern (log 16). -/
  startPattern : Byte
  deriving DecidableEq, Repr

namespace Config

/-- The edges the spec's graph "start → moving-right ⇄ moving-left ⇄ holding" has, and the self-loops (R241, R242). -/
def edgeAllowed : DirState → DirState → Bool
  | .start, .start => true
  | .start, .movingRight => true
  | .movingRight, .movingRight => true
  | .movingRight, .movingLeft => true
  | .movingLeft, .movingLeft => true
  | .movingLeft, .movingRight => true
  | .movingLeft, .holding => true
  | .holding, .holding => true
  | .holding, .movingLeft => true
  | _, _ => false

/-- The defaults of 00_scope.md R10. The OPEN parameters and the host's own hold values the model names.
DESIGN CHOICE (log 4, log 15, log 16), unsafe for a claim about `State.reset` alone; claims quantify over `Params`. -/
def default : Params where
  wCnt := 32
  posSer := 0
  posSrclk := 1
  posRclk := 2
  posClr := 3
  hasClr := true
  rxReadClears := false
  chX := 0
  chY := 1
  btnPin := 0
  btnActive := true
  role := .sender
  armPeriod := 1
  tickInc := 1
  wElapsed := 32
  tasks := [⟨1, .stickLink⟩]
  dirTable := [⟨.movingRight, .left, .movingLeft⟩, ⟨.movingLeft, .right, .movingRight⟩]
  dirOutputs := { start := .keep, movingRight := .right, movingLeft := .left, holding := .keep }
  startPattern := 0x01

/-- The answer of the analog oracle to draw number `n` on a channel, once the run's script is exhausted: under no law
(00_scope.md R14, 93_implementation_defined.md U13; log 8). -/
opaque adcFree (n : Nat) (channel : Line) : Sample

/-- The answer of the pin oracle to draw number `n` on a pin (R14, U13; log 8). -/
opaque pinFree (n : Nat) (pin : Nat) : Bool

/-- The byte the receive slot holds after overrun number `n` (43_link_codec.md R205, U4; log 9). -/
opaque overrunFree (n : Nat) : Byte

end Config

end Sys2Proof
end

