-- ==== Sys2Proof/Machine/Fsm.lean ====
section
/-! DEFINITION. The host's two state machines (44_host_scheduler_fsm.md R240 to R244): next state, output, and the moves of
the pattern. -/

namespace Sys2Proof.Machine

/-- States of the Stick/Link FSM (R244). -/
inductive StickState where
  | start
  | running
  deriving DecidableEq, Repr

/-- The machine a node of each role runs (R247). -/
def roleMachine : Role → TaskAction
  | .sender => .stickLink
  | .displaySerial => .direction
  | .displayAnalog => .direction

/-- The two-phase tick: the next state from state and input, then the output from the state that results (R240). -/
def fsmTick {σ ι α : Type} (transition : σ → ι → σ) (output : σ → α) (state : σ) (input : ι) : σ × α :=
  let next := transition state input
  (next, output next)

/-- The Direction FSM's transition by the run's table; an unmatched case is a self-loop (R241, R242; log 15). -/
def dirNext (table : List DirEdge) (state : DirState) (input : Direction) : DirState :=
  match table.find? (fun e => e.source == state && e.input == input) with
  | some e => e.target
  | none => state

/-- The Direction FSM's Moore output (log 15). -/
def dirOutput (o : DirOutputs) : DirState → PatternMove
  | .start => o.start
  | .movingRight => o.movingRight
  | .movingLeft => o.movingLeft
  | .holding => o.holding

/-- `moveLeft` (R243): shifts right, stays at `0x01`. -/
def moveLeft (pat : Byte) : Byte := if pat = 0x01 then 0x01 else pat >>> 1

/-- `moveRight` (R243): shifts left, stays at `0x80`. -/
def moveRight (pat : Byte) : Byte := if pat = 0x80 then 0x80 else pat <<< 1

/-- The pattern after a move (R243). -/
def applyMove : PatternMove → Byte → Byte
  | .keep, pat => pat
  | .left, pat => moveLeft pat
  | .right, pat => moveRight pat

/-- The Stick/Link FSM's transition: to running on the first tick, and there it stays (R244). -/
def stickNext : StickState → StickState
  | .start => .running
  | .running => .running

/-- Whether the Stick/Link FSM's output in a state is the sending action of R245. -/
def stickSends : StickState → Bool
  | .start => false
  | .running => true

end Sys2Proof.Machine
end

