-- ==== Sys2Proof/WellFormed.lean ====
section
/-! DEFINITION. When an instruction is one the encoding can carry, and when parameters are legal. -/

namespace Sys2Proof

/-- `M` is a `u W_CNT` (30_encoding.md R87, R88). -/
def fitsWidth (wCnt : Nat) (m : Count) : Bool := decide (m.toNat < 2 ^ wCnt)

/-- Every operand is a value of its field (R88): only `M` can fall outside, since the other operand types hold exactly
the values of their fields. -/
def Instr.wf (wCnt : Nat) : Instr → Bool
  | .arm m => fitsWidth wCnt m
  | .setPeriod m => fitsWidth wCnt m
  | .disarm => true
  | .poll => true
  | .ack => true
  | .send _ => true
  | .classify _ _ => true
  | .sampleDir => true
  | .encode _ _ => true
  | .decode _ => true
  | .trySend _ => true
  | .tryReceive => true
  | .flush => true
  | .cmpEvent => true
  | .rxArrive _ => true
  | .txDone => true

/-- The pattern has exactly one bit set (44_host_scheduler_fsm.md R243). -/
def singleBit (b : Byte) : Bool :=
  b == 0x01 || b == 0x02 || b == 0x04 || b == 0x08 || b == 0x10 || b == 0x20 || b == 0x40 || b == 0x80

/-- The legal parameters (00_scope.md R10) of a node and of the host that drives it. That `W_ELAPSED` has the range of
`W_CNT` is the model's (log 24), the reading of R243 in `outputs` and `follows` is DEDUCED (log 15). -/
structure Params.Legal (p : Params) : Prop where
  width      : 1 ≤ p.wCnt ∧ p.wCnt ≤ 32
  serSrclk   : p.posSer ≠ p.posSrclk
  serRclk    : p.posSer ≠ p.posRclk
  serClr     : p.posSer ≠ p.posClr
  srclkRclk  : p.posSrclk ≠ p.posRclk
  srclkClr   : p.posSrclk ≠ p.posClr
  rclkClr    : p.posRclk ≠ p.posClr
  channels   : p.chX ≠ p.chY
  /-- The caller rejects a zero period before it reaches `ARM` (70_reset_and_hazards.md R293 (3), R308). -/
  bootFits   : fitsWidth p.wCnt p.armPeriod = true
  bootPos    : p.armPeriod ≠ 0
  elapsed    : 1 ≤ p.wElapsed ∧ p.wElapsed ≤ 32
  increment  : fitsWidth p.wElapsed p.tickInc = true
  /-- One tick, or the `periodMs` given to `ARM` (44_host_scheduler_fsm.md R235). -/
  unit       : p.tickInc = 1 ∨ p.tickInc = p.armPeriod
  /-- The integers of a task have `W_ELAPSED` bits (R232). -/
  periods    : ∀ t ∈ p.tasks, fitsWidth p.wElapsed t.periodTicks = true
  /-- The node runs its role's machine (R247), which exactly one task advances (R240). -/
  owned      : (p.tasks.map (fun t => t.action)).count (Machine.roleMachine p.role) = 1
  /-- and no task of it advances the other role's machine (R247). -/
  ownOnly    : ∀ t ∈ p.tasks, t.action = Machine.roleMachine p.role ∨ t.action = .other
  /-- The rows of the table are edges of the graph (R242). -/
  edges      : ∀ e ∈ p.dirTable, Config.edgeAllowed e.source e.target = true
  /-- The two moving states make the moves they are named after (R243). -/
  outputs    : p.dirOutputs.movingLeft = .left ∧ p.dirOutputs.movingRight = .right
  /-- A `Left` input never moves the pattern as a `Right` input does, nor the other way round (R243). -/
  follows    : ∀ st : DirState,
    Machine.dirOutput p.dirOutputs (Machine.dirNext p.dirTable st .left) ≠ .right ∧
    Machine.dirOutput p.dirOutputs (Machine.dirNext p.dirTable st .right) ≠ .left
  /-- The first pattern has one bit (R243). -/
  pattern    : singleBit p.startPattern = true

end Sys2Proof
end

