-- ==== Sys2Proof/Decode.lean ====
section
/-! DEFINITION. The 40-bit operation word (30_encoding.md R86 to R92): decoder, encoder, assembler text (R93). -/

namespace Sys2Proof

/-- Why a word is illegal (30_encoding.md R91). The block's reason is `IllegalWord` for all three and records nothing
more (60_exceptions.md R261); the names serve the reader. -/
inductive Reject where
  | unknownOpcode
  | nonzeroBits
  | notDir4
  deriving DecidableEq, Repr

/-- `DIR4` of a direction (R81). -/
def Direction.dir4 : Direction → Nibble
  | .neutral => 0b0000
  | .left => 0b0001
  | .right => 0b0010
  | .down => 0b0100
  | .up => 0b1000

/-- The direction a nibble encodes; the other eleven values encode none (R81). -/
def dirOfNibble (n : Nibble) : Option Direction :=
  if n = 0b0000 then some .neutral
  else if n = 0b0001 then some .left
  else if n = 0b0010 then some .right
  else if n = 0b0100 then some .down
  else if n = 0b1000 then some .up
  else none

/-- `W[39:32]` (R86). -/
def opcodeOf (w : OpWord) : Byte := w.extractLsb' 32 8

/-- `W[31:0]` (R86). -/
def operandOf (w : OpWord) : BitVec 32 := w.extractLsb' 0 32

/-- Format N: the whole operand field is 0 (R87). -/
def formatN (v : BitVec 32) (i : Instr) : Except Reject Instr :=
  if v = 0 then .ok i else .error .nonzeroBits

/-- Format P: `M = W[W_CNT-1:0]`, the bits above are 0 (R87). -/
def formatP (wCnt : Nat) (v : BitVec 32) (mk : Count → Instr) : Except Reject Instr :=
  if fitsWidth wCnt v then .ok (mk v) else .error .nonzeroBits

/-- Format B: `b = W[7:0]`, `W[31:8] = 0` (R87). -/
def formatB (v : BitVec 32) (mk : Byte → Instr) : Except Reject Instr :=
  if v.extractLsb' 8 24 = 0 then .ok (mk (v.extractLsb' 0 8)) else .error .nonzeroBits

/-- Format XY: `x = W[9:0]`, `y = W[25:16]`, `W[15:10] = 0`, `W[31:26] = 0` (R87). -/
def formatXY (v : BitVec 32) (mk : Sample → Sample → Instr) : Except Reject Instr :=
  if v.extractLsb' 10 6 = 0 ∧ v.extractLsb' 26 6 = 0 then
    .ok (mk (v.extractLsb' 0 10) (v.extractLsb' 16 10))
  else .error .nonzeroBits

/-- Format DF: `d = W[3:0]`, `f = W[4]`, `W[31:5] = 0`, `d` one of the five `DIR4` (R87). -/
def formatDF (v : BitVec 32) (mk : Direction → Bool → Instr) : Except Reject Instr :=
  if v.extractLsb' 5 27 = 0 then
    match dirOfNibble (v.extractLsb' 0 4) with
    | some d => .ok (mk d (v.getLsbD 4))
    | none => .error .notDir4
  else .error .nonzeroBits

/-- A row of the opcode map: its operand format (R87) and the operation it makes of the fields. -/
inductive Row where
  | n (i : Instr)
  | p (mk : Count → Instr)
  | b (mk : Byte → Instr)
  | xy (mk : Sample → Sample → Instr)
  | df (mk : Direction → Bool → Instr)

/-- The opcode map (R90). -/
def opcodeMap : List (Byte × Row) :=
  [ (0x01, .p .arm)
  , (0x02, .n .disarm)
  , (0x03, .p .setPeriod)
  , (0x04, .n .poll)
  , (0x05, .n .ack)
  , (0x10, .b .send)
  , (0x20, .xy .classify)
  , (0x21, .n .sampleDir)
  , (0x30, .df .encode)
  , (0x31, .b .decode)
  , (0x32, .b .trySend)
  , (0x33, .n .tryReceive)
  , (0x34, .n .flush)
  , (0x80, .n .cmpEvent)
  , (0x90, .b .rxArrive)
  , (0x91, .n .txDone) ]

/-- An operand field read in a row's format. -/
def readRow (wCnt : Nat) (v : BitVec 32) : Row → Except Reject Instr
  | .n i => formatN v i
  | .p mk => formatP wCnt v mk
  | .b mk => formatB v mk
  | .xy mk => formatXY v mk
  | .df mk => formatDF v mk

/-- The decoder (R92): the opcode selects the row, the row's format checks its zero bits and gives the fields. -/
def decode (wCnt : Nat) (w : OpWord) : Except Reject Instr :=
  match opcodeMap.lookup (opcodeOf w) with
  | some r => readRow wCnt (operandOf w) r
  | none => .error .unknownOpcode

/-- What the host asks of the decoder, in the table's own numbering: one 40-bit number, bit 0 least significant
(30_encoding.md R92, whose masks are written for `W_CNT = 32`; log 22). -/
def decodeTableWord (nbits w : Nat) : Option Instr :=
  if nbits ≤ 40 ∧ w < 2 ^ 40 then (decode 32 (BitVec.ofNat 40 w)).toOption else none

/-- A word from its opcode and operand field (R86). -/
def packWord (op : Byte) (v : BitVec 32) : OpWord := op ++ v

/-- Operand field of format B (R87). -/
def fieldB (b : Byte) : BitVec 32 := 0#24 ++ b

/-- Operand field of format XY (R87). -/
def fieldXY (x y : Sample) : BitVec 32 := (0#6 ++ y) ++ (0#6 ++ x)

/-- Operand field of format DF (R87). -/
def fieldDF (d : Direction) (f : Bool) : BitVec 32 := 0#27 ++ (BitVec.ofBool f ++ d.dir4)

/-- The encoder, from the same tables (R87, R90). -/
def encode : Instr → OpWord
  | .arm m => packWord 0x01 m
  | .disarm => packWord 0x02 0
  | .setPeriod m => packWord 0x03 m
  | .poll => packWord 0x04 0
  | .ack => packWord 0x05 0
  | .send b => packWord 0x10 (fieldB b)
  | .classify x y => packWord 0x20 (fieldXY x y)
  | .sampleDir => packWord 0x21 0
  | .encode d f => packWord 0x30 (fieldDF d f)
  | .decode b => packWord 0x31 (fieldB b)
  | .trySend b => packWord 0x32 (fieldB b)
  | .tryReceive => packWord 0x33 0
  | .flush => packWord 0x34 0
  | .cmpEvent => packWord 0x80 0
  | .rxArrive b => packWord 0x90 (fieldB b)
  | .txDone => packWord 0x91 0

/-- A direction's name in assembler text (R93). -/
def Direction.asm : Direction → String
  | .neutral => "Neutral"
  | .up => "Up"
  | .down => "Down"
  | .left => "Left"
  | .right => "Right"

/-- One hexadecimal digit (R93 writes a byte as `0x` and two of them). -/
def hexDigit (n : Nibble) : String :=
  ["0", "1", "2", "3", "4", "5", "6", "7", "8", "9", "A", "B", "C", "D", "E", "F"].getD n.toNat "?"

/-- A byte in assembler text (R93). -/
def Byte.asm (b : Byte) : String := "0x" ++ hexDigit (b.extractLsb' 4 4) ++ hexDigit (b.extractLsb' 0 4)

/-- The assembler line of an operation (R93). -/
def Instr.asm : Instr → String
  | .arm m => "ARM " ++ toString m.toNat
  | .disarm => "DISARM"
  | .setPeriod m => "SETPERIOD " ++ toString m.toNat
  | .poll => "POLL"
  | .ack => "ACK"
  | .send b => "SEND " ++ Byte.asm b
  | .classify x y => "CLASSIFY " ++ toString x.toNat ++ ", " ++ toString y.toNat
  | .sampleDir => "SAMPLE_DIR"
  | .encode d f => "ENCODE " ++ d.asm ++ (if f then ", 1" else ", 0")
  | .decode b => "DECODE " ++ Byte.asm b
  | .trySend b => "TRYSEND " ++ Byte.asm b
  | .tryReceive => "TRYRECEIVE"
  | .flush => "FLUSH"
  | .cmpEvent => "CMP_EVENT"
  | .rxArrive b => "RX_ARRIVE " ++ Byte.asm b
  | .txDone => "TX_DONE"

end Sys2Proof
end

