-- ==== Sys2Proof/Machine/State.lean ====
section
/-! DEFINITION. The state of one node (10_state.md R20), grouped by unit as the spec groups it (R73: the units share no
state), with the host state (44_host_scheduler_fsm.md R231), the spec's observations and marks (R28, R35, R36, R41), and
what a run fixes (R41), which stands here because a step is a function of the state alone (log 2). -/

namespace Sys2Proof.Machine

/-- The two reasons an operation is turned away, codes 1 and 2 (60_exceptions.md R261). -/
inductive Reason where
  | periodZero
  | illegalWord
  deriving DecidableEq, Repr

/-- What the latest host operation handed to the host (00_scope.md R16, 30_encoding.md R89), or why it was turned away
(R15). It is no register of the block; environment steps hand the host nothing and leave it (log 7). -/
inductive Answer where
  | nothing
  | poll (p : Bool)
  | direction (d : Direction)
  | frame (b : Byte)
  | decoded (d : Direction) (f : Bool) (valid : Bool)
  | sent (s : Bool)
  | received (r : Option Byte)
  | refuse (r : Reason)
  deriving DecidableEq, Repr

/-- Unit TICK (R22 to R25). -/
structure TickUnit where
  /-- `ARMED` (R22). -/
  armed : Bool
  /-- `RELOAD` (R23). -/
  reload : Count
  /-- `CNT` (R24). -/
  cnt : Count
  /-- `TICKPENDING` (R25). -/
  tickPending : Bool
  deriving DecidableEq, Repr

/-- Unit SHOUT (R27, R28). -/
structure ShoutUnit where
  /-- `PORT` (R27). -/
  port : Byte
  /-- `PORTLOG`, oldest first (R28). -/
  portLog : List Byte
  deriving DecidableEq, Repr

/-- The downstream shift-register chip (R29). -/
structure Chip where
  /-- `SR`, `SR[0]` the stage the serial-data line feeds. -/
  sr : Byte
  /-- `Q`, the parallel outputs. -/
  q : Byte
  deriving DecidableEq, Repr

/-- Unit LINK (R31 to R36). -/
structure LinkUnit where
  /-- `TXREADY` (R31). -/
  txReady : Bool
  /-- `TXDATA` (R32). -/
  txData : Byte
  /-- `TXLOG`, oldest first (R35). -/
  txLog : List Byte
  /-- `RXFULL` (R33). -/
  rxFull : Bool
  /-- `RXDATA` (R34). -/
  rxData : Byte
  /-- `RXOVR`, sticky (R36). -/
  rxOvr : Bool
  deriving DecidableEq, Repr

/-- An oracle of the run as plain data: the answers the run has fixed, in the order they will be drawn, and how many
draws were made. Past the script's end the answer is a free value of Config at that count (log 8, log 9). -/
structure Draws (α : Type) where
  script : List α
  used   : Nat
  deriving DecidableEq, Repr

/-- The three oracles (R41): analog samples, button pin, overrun byte. -/
structure Oracles where
  adc     : Draws Sample
  pin     : Draws Bool
  overrun : Draws Byte
  deriving DecidableEq, Repr

/-- A task at run time (44_host_scheduler_fsm.md R232). -/
structure Task where
  periodTicks : Count
  elapsed     : Count
  action      : TaskAction
  deriving DecidableEq, Repr

/-- Where the host agent stands in its main loop (R233; the action of a task R244, R245; boot R293). `k` is the index of
the task whose action runs. DESIGN CHOICE (log 14). -/
inductive HostPc where
  /-- about to `ARM` (R293 (3)) -/
  | boot
  /-- about to `TRYRECEIVE` (R233 (1), R206) -/
  | service
  /-- about to `FLUSH`, holding the byte received -/
  | flush (b : Byte)
  /-- about to `DECODE` it -/
  | unpack (b : Byte)
  /-- about to `POLL` (R233 (2)) -/
  | poll
  /-- about to `ACK` -/
  | ack
  /-- about to advance task `k` (R233 (3), R234) -/
  | task (k : Nat)
  /-- Stick/Link action: about to `SAMPLE_DIR` (R245) -/
  | sampleStick (k : Nat)
  /-- about to read the button pin -/
  | readPin (k : Nat) (d : Direction)
  /-- about to `ENCODE` -/
  | pack (k : Nat) (d : Direction) (f : Bool)
  /-- about to `TRYSEND` -/
  | transmit (k : Nat) (frame : Byte)
  /-- Direction action on a node fed by its own axes: about to `SAMPLE_DIR` (R247) -/
  | sampleDisplay (k : Nat)
  /-- about to `SEND` the pattern (R243) -/
  | display (k : Nat)
  deriving DecidableEq, Repr

/-- The host agent's state (R231). -/
structure HostAgent where
  pc         : HostPc
  tasks      : List Task
  stickState : StickState
  dirState   : DirState
  /-- `pat`, the display node's LED pattern. -/
  pat        : Byte
  /-- `lastIn`, the display node's latest received input. -/
  lastIn     : Direction
  deriving DecidableEq, Repr

/-- One place of the operation stream (R41): an operation word, of the host or of the environment, or a turn of the host
agent's own program. DESIGN CHOICE (log 2, log 14). -/
inductive Slot where
  | word (w : OpWord)
  | hostTurn
  deriving DecidableEq, Repr

/-- One node (R20), with what its run fixes (R41). -/
structure State where
  tick    : TickUnit
  shout   : ShoutUnit
  chip    : Chip
  link    : LinkUnit
  /-- `REFUSED`, sticky (R41). -/
  refused : Bool
  answer  : Answer
  host    : HostAgent
  params  : Params
  oracles : Oracles
  /-- The operation stream (R41). -/
  stream  : List Slot
  /-- The position in it (R41). -/
  pos     : Nat
  deriving DecidableEq, Repr

/-- Stops that are no behaviour of the hardware, which raises no fault (60_exceptions.md R260): here the run has no next
step at all. -/
inductive Fault where
  /-- Raised by `step` when the operation stream is exhausted: the run has ended (70_reset_and_hazards.md R316). Safe:
  the model allows nothing the hardware does not (log 11). -/
  | streamExhausted
  /-- Raised by `CMP_EVENT` while `ARMED` is false: the step does not exist, it is not a no-op (40_tick_source.md R118).
  Safe: such a stream is no run (log 10). -/
  | cmpEventNotEnabled
  /-- Raised by `TX_DONE` while `TXREADY` is true: the step is not enabled (43_link_codec.md R201). Safe (log 10). -/
  | txDoneNotEnabled
  deriving DecidableEq, Repr

/-- An instruction without a meaning. The spec's own `refuse` (R15, R261) is not here: it leaves a state behind, with
`REFUSED` set, so it is a next state (log 1). -/
inductive Refusal where
  /-- Raised by an arm of `exec` whose instruction has no meaning yet; no arm does. Safe. -/
  | notModelled (mnemonic : String)
  deriving DecidableEq, Repr

/-- The values R40 calls unspecified at reset: any value (93_implementation_defined.md U5, U6). -/
structure PowerOnValues where
  reload : Count
  cnt    : Count
  sr     : Byte
  q      : Byte
  txData : Byte
  rxData : Byte
  deriving DecidableEq, Repr

/-- Power-on reset (70_reset_and_hazards.md R290, 10_state.md R40) of an implementation with parameters `p`, for any
choice `u` of the unspecified values; the host at startup (R291) and the stream at its first slot, with nothing in it. -/
def State.powerOn (p : Params) (u : PowerOnValues) : State where
  tick := { armed := false, reload := u.reload, cnt := u.cnt, tickPending := false }
  shout := { port := 0x00, portLog := [] }
  chip := { sr := u.sr, q := u.q }
  link := { txReady := true, txData := u.txData, txLog := [], rxFull := false, rxData := u.rxData, rxOvr := false }
  refused := false
  answer := .nothing
  host :=
    { pc := .boot
      tasks := p.tasks.map (fun t => { periodTicks := t.periodTicks, elapsed := 0, action := t.action })
      stickState := .start
      dirState := .start
      pat := p.startPattern
      lastIn := .neutral }
  params := p
  oracles := { adc := ⟨[], 0⟩, pin := ⟨[], 0⟩, overrun := ⟨[], 0⟩ }
  stream := []
  pos := 0

/-- The model's named choice of the unspecified values: zero. DESIGN CHOICE, unsafe (log 6). -/
def PowerOnValues.zero : PowerOnValues :=
  { reload := 0, cnt := 0, sr := 0x00, q := 0x00, txData := 0x00, rxData := 0x00 }

/-- The machine right after reset, with the default parameters of 00_scope.md R10 (log 4) and zero where R40 leaves any
value (log 6). -/
def State.reset : State := State.powerOn Config.default PowerOnValues.zero

end Sys2Proof.Machine
end

