-- ==== Sys2Proof/Machine/Ops.lean ====
section
/-! DEFINITION. The shared operations: the stream, the answers, the oracles, the output port with the downstream chip's
reaction, and the one interrupt's entry. -/

namespace Sys2Proof.Machine

/-! ## The operation stream (10_state.md R41) -/

/-- The slot at the position, none when the stream is exhausted (70_reset_and_hazards.md R316). -/
def State.slot (s : State) : Option Slot := s.stream[s.pos]?

/-- Past the slot just read. -/
def State.advance (s : State) : State := { s with pos := s.pos + 1 }

/-- A stream with `x` at position `pos`: longer slots of a stream that is too short are filled with host turns. -/
def placeSlot (stream : List Slot) (pos : Nat) (x : Slot) : List Slot :=
  (stream ++ List.replicate (pos - stream.length) Slot.hostTurn).take pos ++ x :: stream.drop (pos + 1)

/-! ## Outcomes (00_scope.md R15, R16) -/

/-- The result an operation hands to the host. -/
def State.hand (s : State) (a : Answer) : State := { s with answer := a }

/-- `refuse(reason)`: nothing changes but `REFUSED`, which is set (60_exceptions.md R261; log 1). -/
def State.refuse (s : State) (r : Reason) : State := { s with refused := true, answer := .refuse r }

/-- The number of a refusal's reason (R261). -/
def Reason.code : Reason → Nat
  | .periodZero => 1
  | .illegalWord => 2

/-! ## Oracles (00_scope.md R14) -/

/-- One draw: the next answer of the script, or past its end the free value at this count. -/
def drawFrom {α : Type} (d : Draws α) (free : Nat → α) : α × Draws α :=
  match d.script with
  | [] => (free d.used, { script := [], used := d.used + 1 })
  | a :: rest => (a, { script := rest, used := d.used + 1 })

/-- `AdcRead(ch)` (R14): a fresh draw each time (20_memory.md R67). -/
def adcRead (ch : Line) (s : State) : Sample × State :=
  let r := drawFrom s.oracles.adc (fun n => Config.adcFree n ch)
  (r.1, { s with oracles := { s.oracles with adc := r.2 } })

/-- `PinRead(pin)` (R14). -/
def pinRead (pin : Nat) (s : State) : Bool × State :=
  let r := drawFrom s.oracles.pin (fun n => Config.pinFree n pin)
  (r.1, { s with oracles := { s.oracles with pin := r.2 } })

/-- The draw that answers an overrun (43_link_codec.md R205). -/
def overrunDraw (s : State) : Byte × State :=
  let r := drawFrom s.oracles.overrun Config.overrunFree
  (r.1, { s with oracles := { s.oracles with overrun := r.2 } })

/-! ## The output port and the downstream chip -/

/-- Whether a bit of the port rises when the mask changes (41_shift_out.md R152). -/
def rises (i : Line) (old new : Byte) : Bool := !old.getLsbD i && new.getLsbD i

/-- The reaction of the chip to one port write (R152, D17). PRESUMED (log 19): a low clear line clears the chain and
not the outputs. -/
def chipReact (p : Params) (old new : Byte) (c : Chip) : Chip :=
  { sr :=
      if p.hasClr && !new.getLsbD p.posClr then 0x00
      else if rises p.posSrclk old new then (c.sr <<< 1) ||| (BitVec.ofBool (new.getLsbD p.posSer)).setWidth 8
      else c.sr
    q := if rises p.posRclk old new then c.sr else c.q }

/-- `PortWrite(m)` (00_scope.md R14): all eight lines at once, the mask appended to `PORTLOG`, and the chip reacts. -/
def portWrite (s : State) (m : Byte) : State :=
  { s with
    shout := { port := m, portLog := s.shout.portLog ++ [m] }
    chip := chipReact s.params s.shout.port m s.chip }

/-! ## The interrupt -/

/-- A value kept to `w` bits (00_scope.md R12). -/
def narrow (w : Nat) (v : Count) : Count := BitVec.ofNat 32 (v.toNat % 2 ^ w)

/-- Taking the interrupt (60_exceptions.md R266): the handler's work on the TICK unit (40_tick_source.md R117, R118) and
nothing more. Nothing is saved, no mode or mask changes, and there is no return operation (R267). -/
def takeInterrupt (wCnt : Nat) (t : TickUnit) : TickUnit :=
  let c := narrow wCnt (t.cnt - 1)
  if c = 0 then { t with tickPending := true, cnt := t.reload } else { t with cnt := c }

end Sys2Proof.Machine
end

