-- ==== Sys2Proof/Machine/Operands.lean ====
section
/-! DEFINITION. The operand forms that need more than their field: the period operand, the port mask, the frame, the
comparators, the packed results. -/

namespace Sys2Proof.Machine

/-- The check on the operand of `ARM` and `SETPERIOD`: none when it is a legal period. A value beyond `W_CNT` bits is no
operand (30_encoding.md R87; the decoder answers it first, 60_exceptions.md R261; log 5); zero is `PeriodZero`
(40_tick_source.md R121). -/
def periodProblem (wCnt : Nat) (m : Count) : Option Reason :=
  if fitsWidth wCnt m = false then some .illegalWord
  else if m = 0 then some .periodZero
  else none

/-- One line of a port mask. -/
def lineMask (i : Line) (level : Bool) : Byte := if level then 1#8 <<< i.val else 0

/-- `m(ser, srclk, rclk, clr)` (41_shift_out.md R141, 30_encoding.md R84): the clear bit is written 0 without a clear
line (R147), every other bit is 0. -/
def portMask (p : Params) (ser srclk rclk clr : Bool) : Byte :=
  lineMask p.posSer ser ||| lineMask p.posSrclk srclk ||| lineMask p.posRclk rclk |||
    lineMask p.posClr (p.hasClr && clr)

/-- Writes W1, W2, W3 of one bit (R141). -/
def bitMasks (p : Params) (b : Bool) : List Byte :=
  [portMask p false false false true, portMask p b false false true, portMask p b true false true]

/-- The 26 masks of `SEND pattern`, bit 0 first (R141, R146): three a bit, then W4 and W5. -/
def sendMasks (p : Params) (pattern : Byte) : List Byte :=
  (List.range 8).flatMap (fun i => bitMasks p (pattern.getLsbD i)) ++
    [portMask p (pattern.getLsbD 7) true true true, portMask p false false false false]

/-- The eight strict comparators and the priority network (42_direction_decoder.md R171, R172). -/
def classify (x y : Sample) : Direction :=
  let yHi := decide (1000 < y.toNat)
  let yLo := decide (y.toNat < 50)
  let xMid := decide (100 < x.toNat) && decide (x.toNat < 900)
  let xHi := decide (1000 < x.toNat)
  let xLo := decide (x.toNat < 50)
  let yMid := decide (100 < y.toNat) && decide (y.toNat < 900)
  if yHi && xMid then .up
  else if yLo && xMid then .down
  else if xHi && yMid then .right
  else if xLo && yMid then .left
  else .neutral

/-- The frame of a direction and a flag, bit by bit (43_link_codec.md R191, 30_encoding.md R80). -/
def packFrame (d : Direction) (f : Bool) : Byte :=
  lineMask 0 (d == .left) ||| lineMask 1 (d == .right) ||| lineMask 2 (d == .down) ||| lineMask 3 (d == .up) |||
    lineMask 4 f

/-- How many direction bits of a frame are set (R194). -/
def directionBits (b : Byte) : Nat :=
  (b.getLsbD 0).toNat + (b.getLsbD 1).toNat + (b.getLsbD 2).toNat + (b.getLsbD 3).toNat

/-- `valid` of a decode (R194): bits 5 to 7 clear and at most one direction bit. -/
def frameValid (b : Byte) : Bool := decide (b.extractLsb' 5 3 = 0) && decide (directionBits b ≤ 1)

/-- `d` of a decode (R194); meaningless where the frame is not valid (R196; log 13). -/
def frameDirection (b : Byte) : Direction :=
  if directionBits b ≤ 1 then (dirOfNibble (b.extractLsb' 0 4)).getD .neutral else .neutral

/-- `f` of a decode (R194). -/
def frameFlag (b : Byte) : Bool := b.getLsbD 4

/-- The bits a test vector writes a result as (30_encoding.md R89); none where the operation returns nothing. -/
def Answer.packed : Answer → Option Nat
  | .nothing => none
  | .poll p => some p.toNat
  | .direction d => some d.dir4.toNat
  | .frame b => some b.toNat
  | .decoded d f v => some (v.toNat * 32 + f.toNat * 16 + d.dir4.toNat)
  | .sent s => some s.toNat
  | .received none => some 0
  | .received (some b) => some (256 + b.toNat)
  | .refuse _ => none

end Sys2Proof.Machine
end

