-- ==== Sys2Proof/Machine/Dirdec.lean ====
section
/-! DEFINITION. Unit DIRDEC (42_direction_decoder.md): no state (10_state.md R30). -/

namespace Sys2Proof.Machine

/-- `CLASSIFY x, y` (R172). -/
def execClassify (x y : Sample) (s : State) : Host.Outcome State Fault Refusal :=
  .next (s.hand (.direction (classify x y)))

/-- `SAMPLE_DIR` (R176): two fresh draws, x first (D26), then the decoder. -/
def execSampleDir (s : State) : Host.Outcome State Fault Refusal :=
  let x := adcRead s.params.chX s
  let y := adcRead s.params.chY x.2
  .next (y.2.hand (.direction (classify x.1 y.1)))

end Sys2Proof.Machine
end

