-- ==== Sys2Proof/Machine/Flags.lean ====
section
/-! DEFINITION. The three status flags (10_state.md R38) as the operations that write them do: each is written only by
the operations R37 names, never as a side effect of computing. There are no condition codes. -/

namespace Sys2Proof.Machine

/-- `TICKPENDING <- false` (40_tick_source.md R115). Its setting is `takeInterrupt` (R118). -/
def clearTickPending (t : TickUnit) : TickUnit := { t with tickPending := false }

/-- The transmitter takes a byte: `TXREADY <- false` (43_link_codec.md R199). -/
def takeForTransmit (b : Byte) (l : LinkUnit) : LinkUnit :=
  { l with txReady := false, txData := b, txLog := l.txLog ++ [b] }

/-- `TXREADY <- true` (R201). -/
def setTxReady (l : LinkUnit) : LinkUnit := { l with txReady := true }

/-- `RXFULL <- false` (R203, R204). -/
def clearRxFull (l : LinkUnit) : LinkUnit := { l with rxFull := false }

/-- A clean arrival: `RXFULL <- true` (R205). -/
def fillReceive (b : Byte) (l : LinkUnit) : LinkUnit := { l with rxFull := true, rxData := b }

/-- An overrun leaves `RXFULL` set, marks `RXOVR`, and the slot holds the drawn byte (R205, R36). -/
def overrunReceive (v : Byte) (l : LinkUnit) : LinkUnit := { l with rxData := v, rxOvr := true }

end Sys2Proof.Machine
end

