-- ==== Sys2Proof/Machine/Link.lean ====
section
/-! DEFINITION. Unit LINK (43_link_codec.md). -/

namespace Sys2Proof.Machine

/-- `ENCODE d, f` (R191). -/
def execEncode (d : Direction) (f : Bool) (s : State) : Host.Outcome State Fault Refusal :=
  .next (s.hand (.frame (packFrame d f)))

/-- `DECODE b` (R194). -/
def execDecode (b : Byte) (s : State) : Host.Outcome State Fault Refusal :=
  .next (s.hand (.decoded (frameDirection b) (frameFlag b) (frameValid b)))

/-- `TRYSEND b` (R199): a busy transmitter drops the byte and changes nothing (R200). -/
def execTrySend (b : Byte) (s : State) : Host.Outcome State Fault Refusal :=
  if s.link.txReady then .next { s with link := takeForTransmit b s.link, answer := .sent true }
  else .next (s.hand (.sent false))

/-- `TRYRECEIVE` (R203): empties the slot only with `RX_READ_CLEARS` (D24). -/
def execTryReceive (s : State) : Host.Outcome State Fault Refusal :=
  if s.link.rxFull then
    .next { s with
      link := if s.params.rxReadClears then clearRxFull s.link else s.link
      answer := .received (some s.link.rxData) }
  else .next (s.hand (.received none))

/-- `FLUSH` (R204). -/
def execFlush (s : State) : Host.Outcome State Fault Refusal :=
  .next { s with link := clearRxFull s.link, answer := .nothing }

/-- `RX_ARRIVE b` (R205): a clean arrival, or an overrun that leaves a free byte (log 9). -/
def execRxArrive (b : Byte) (s : State) : Host.Outcome State Fault Refusal :=
  if s.link.rxFull then
    let v := overrunDraw s
    .next { v.2 with link := overrunReceive v.1 s.link }
  else .next { s with link := fillReceive b s.link }

/-- `TX_DONE` (R201). While the transmitter is ready there is no such step (log 10). -/
def execTxDone (s : State) : Host.Outcome State Fault Refusal :=
  if s.link.txReady then .fault .txDoneNotEnabled
  else .next { s with link := setTxReady s.link }

end Sys2Proof.Machine
end

