-- ==== Sys2Proof/Machine/Shout.lean ====
section
/-! DEFINITION. Unit SHOUT (41_shift_out.md). -/

namespace Sys2Proof.Machine

/-- `SEND pattern` (R141): the 26 port writes in order, the chip reacting to each (R152). One step, since every step
that may fall between two writes commutes with them (R150; log 12). -/
def execSend (pattern : Byte) (s : State) : Host.Outcome State Fault Refusal :=
  .next (((sendMasks s.params pattern).foldl portWrite s).hand .nothing)

end Sys2Proof.Machine
end

