-- ==== Sys2Proof/Machine/Tick.lean ====
section
/-! DEFINITION. Unit TICK (40_tick_source.md). -/

namespace Sys2Proof.Machine

/-- `ARM M` (R111; zero R121; re-arming R126). -/
def execArm (m : Count) (s : State) : Host.Outcome State Fault Refusal :=
  match periodProblem s.params.wCnt m with
  | some r => .next (s.refuse r)
  | none => .next { s with tick := { s.tick with reload := m, cnt := m, armed := true }, answer := .nothing }

/-- `DISARM` (R112). -/
def execDisarm (s : State) : Host.Outcome State Fault Refusal :=
  .next { s with tick := { s.tick with armed := false }, answer := .nothing }

/-- `SETPERIOD M` (R113; zero R121). -/
def execSetPeriod (m : Count) (s : State) : Host.Outcome State Fault Refusal :=
  match periodProblem s.params.wCnt m with
  | some r => .next (s.refuse r)
  | none => .next { s with tick := { s.tick with reload := m }, answer := .nothing }

/-- `POLL` (R114). -/
def execPoll (s : State) : Host.Outcome State Fault Refusal :=
  .next (s.hand (.poll s.tick.tickPending))

/-- `ACK` (R115). -/
def execAck (s : State) : Host.Outcome State Fault Refusal :=
  .next { s with tick := clearTickPending s.tick, answer := .nothing }

/-- `CMP_EVENT` (R118): the interrupt, taken. While disarmed there is no such step (log 10). -/
def execCmpEvent (s : State) : Host.Outcome State Fault Refusal :=
  if s.tick.armed then .next { s with tick := takeInterrupt s.params.wCnt s.tick }
  else .fault .cmpEventNotEnabled

end Sys2Proof.Machine
end

