-- ==== Sys2Proof/Machine/Dispatch.lean ====
section
/-! DEFINITION. One arm per operation of 30_encoding.md R90. -/

namespace Sys2Proof.Machine

def exec (i : Instr) (s : State) : Host.Outcome State Fault Refusal :=
  match i with
  | .arm m => Sys2Proof.Machine.execArm m s
  | .disarm => Sys2Proof.Machine.execDisarm s
  | .setPeriod m => Sys2Proof.Machine.execSetPeriod m s
  | .poll => Sys2Proof.Machine.execPoll s
  | .ack => Sys2Proof.Machine.execAck s
  | .send pattern => Sys2Proof.Machine.execSend pattern s
  | .classify x y => Sys2Proof.Machine.execClassify x y s
  | .sampleDir => Sys2Proof.Machine.execSampleDir s
  | .encode d f => Sys2Proof.Machine.execEncode d f s
  | .decode b => Sys2Proof.Machine.execDecode b s
  | .trySend b => Sys2Proof.Machine.execTrySend b s
  | .tryReceive => Sys2Proof.Machine.execTryReceive s
  | .flush => Sys2Proof.Machine.execFlush s
  | .cmpEvent => Sys2Proof.Machine.execCmpEvent s
  | .rxArrive b => Sys2Proof.Machine.execRxArrive b s
  | .txDone => Sys2Proof.Machine.execTxDone s

end Sys2Proof.Machine
end

