-- ==== Sys2Proof/Machine/HostAgent.lean ====
section
/-! DEFINITION. The host agent (44_host_scheduler_fsm.md): the cooperative scheduler and the two state machines, in
scope as the surrounding agent's contract (00_scope.md R5). It reaches the block only by issuing host operations. -/

namespace Sys2Proof.Machine

/-! ## Tasks (R232, R234) -/

/-- `elapsed <- elapsed + TICK_INC` (R234), modulo `2^W_ELAPSED` (00_scope.md R12; log 24). -/
def accumulate (wElapsed : Nat) (tickInc : Count) (t : Task) : Task :=
  { t with elapsed := narrow wElapsed (t.elapsed + tickInc) }

/-- `elapsed >= periodTicks`, compared after the addition (R234). -/
def isDue (t : Task) : Bool := decide (t.periodTicks.toNat ≤ t.elapsed.toNat)

/-- `elapsed <- 0`: reset, not subtract (R234). -/
def restart (t : Task) : Task := { t with elapsed := 0 }

/-- One tick of one task, and whether its action fires (R234). -/
def taskTick (wElapsed : Nat) (tickInc : Count) (t : Task) : Task × Bool :=
  let t' := accumulate wElapsed tickInc t
  if isDue t' then (restart t', true) else (t', false)

/-- A task after `n` ticks, and how often it fired (R236). -/
def taskTicks (wElapsed : Nat) (tickInc : Count) : Nat → Task → Task × Nat
  | 0, t => (t, 0)
  | n + 1, t =>
    let r := taskTicks wElapsed tickInc n t
    let u := taskTick wElapsed tickInc r.1
    (u.1, r.2 + u.2.toNat)

/-! ## The main loop (R233, R293) -/

/-- The first thing an iteration does: a display node fed by the link services its receive slot, outside the tick gate
(R233 (1)); the others have no I/O pending there and wait for the tick. -/
def loopTop (p : Params) : HostPc :=
  match p.role with
  | .sender => .poll
  | .displaySerial => .service
  | .displayAnalog => .poll

/-- The operation the host issues now, none when its turn is its own computation. -/
def hostIssue (p : Params) (h : HostAgent) : Option Instr :=
  match h.pc with
  | .boot => some (.arm p.armPeriod)
  | .service => some .tryReceive
  | .flush _ => some .flush
  | .unpack b => some (.decode b)
  | .poll => some .poll
  | .ack => some .ack
  | .task _ => none
  | .sampleStick _ => some .sampleDir
  | .readPin _ _ => none
  | .pack _ d f => some (.encode d f)
  | .transmit _ frame => some (.trySend frame)
  | .sampleDisplay _ => some .sampleDir
  | .display _ => some (.send h.pat)

/-- The action of task `k` is over: `elapsed <- 0`, on to the next task (R234). -/
def endAction (k : Nat) (h : HostAgent) : HostAgent :=
  { h with tasks := h.tasks.modify k restart, pc := .task (k + 1) }

/-- One tick of the Direction FSM on the latest input: next state, then the output of that state, the moved pattern,
which the host then shows (R240, R242, R243). DESIGN CHOICE (log 25): it is shown at every firing, also when the move
leaves it as it was; 10_state.md R43 leaves to the caller whether a pattern is re-sent at every refresh or only on a
change. -/
def directionAction (p : Params) (k : Nat) (h : HostAgent) : HostAgent :=
  let r := fsmTick (dirNext p.dirTable) (dirOutput p.dirOutputs) h.dirState h.lastIn
  { h with dirState := r.1, pat := applyMove r.2 h.pat, pc := .display k }

/-- The host's state after the operation it issued answered `a`. A frame that is not valid leaves the latest input as it
was (43_link_codec.md R196). -/
def hostAbsorb (p : Params) (a : Answer) (h : HostAgent) : HostAgent :=
  match h.pc with
  | .boot => { h with pc := loopTop p }
  | .service =>
    match a with
    | .received (some b) => { h with pc := .flush b }
    | _ => { h with pc := .poll }
  | .flush b => { h with pc := .unpack b }
  | .unpack _ =>
    match a with
    | .decoded d _ true => { h with lastIn := d, pc := .poll }
    | _ => { h with pc := .poll }
  | .poll =>
    match a with
    | .poll true => { h with pc := .ack }
    | _ => h
  | .ack => { h with pc := .task 0 }
  | .task _ => h
  | .sampleStick k =>
    match a with
    | .direction d => { h with pc := .readPin k d }
    | _ => h
  | .readPin _ _ => h
  | .pack k _ _ =>
    match a with
    | .frame b => { h with pc := .transmit k b }
    | _ => h
  | .transmit k _ => endAction k h
  | .sampleDisplay k =>
    match a with
    | .direction d => directionAction p k { h with lastIn := d }
    | _ => h
  | .display k => endAction k h

/-- The action of a task that is due starts: the FSM's tick (R244, R245; R242, R247). A legal node registers only its own
role's machine (`Params.Legal`). A task that advances neither machine is over at once (log 26). -/
def startAction (p : Params) (k : Nat) (action : TaskAction) (h : HostAgent) : HostAgent :=
  match action with
  | .stickLink =>
    let r := fsmTick (fun st (_ : Unit) => stickNext st) stickSends h.stickState ()
    if r.2 then { h with stickState := r.1, pc := .sampleStick k }
    else endAction k { h with stickState := r.1 }
  | .direction =>
    match p.role with
    | .sender => directionAction p k h
    | .displaySerial => directionAction p k h
    | .displayAnalog => { h with pc := .sampleDisplay k }
  | .other => endAction k h

/-- Task `k`'s share of a tick (R234): add, compare, act when due; past the last task the loop starts again (R233). -/
def taskTurn (p : Params) (k : Nat) (h : HostAgent) : HostAgent :=
  match h.tasks[k]? with
  | none => { h with pc := loopTop p }
  | some t =>
    let t' := accumulate p.wElapsed p.tickInc t
    let h' := { h with tasks := h.tasks.set k t' }
    if isDue t' then startAction p k t.action h' else { h' with pc := .task (k + 1) }

/-- A turn in which the host issues no operation: a task's bookkeeping, or the reading of the button (R246). -/
def hostCompute (s : State) : State :=
  match s.host.pc with
  | .task k => { s with host := taskTurn s.params k s.host }
  | .readPin k d =>
    let r := pinRead s.params.btnPin s
    { r.2 with host := { s.host with pc := .pack k d (r.1 == s.params.btnActive) } }
  | _ => s

/-- One turn of the host agent (log 14): it issues one operation and takes its answer, or computes. -/
def hostTurn (s : State) : Host.Outcome State Fault Refusal :=
  match hostIssue s.params s.host with
  | none => .next (hostCompute s)
  | some i =>
    match exec i s with
    | .next t => .next { t with host := hostAbsorb t.params t.answer t.host }
    | .fault r => .fault r
    | .refused r => .refused r

/-! ## Pseudo-operations with a fixed expansion (30_encoding.md R94) -/

/-- `TICKS n` (R94). `WAIT_TICK` and `RECEIVE_FRAME`, whose expansion depends on results, are the host agent's turns from
`HostPc.poll` and from `HostPc.service`. -/
def ticksOps (n : Nat) : List Instr := List.replicate n .cmpEvent

/-- `SEND_FRAME dir, f` (R94). -/
def sendFrameOps (d : Direction) (f : Bool) : List Instr := [.encode d f, .trySend (packFrame d f)]

end Sys2Proof.Machine
end

