-- ==== Sys2Proof/Machine/Stream.lean ====
section
/-! DEFINITION. What a place of the operation stream does (10_state.md R41, 20_memory.md R69). -/

namespace Sys2Proof.Machine

/-- A host turn is the host agent's; a word is decoded and executed, an illegal one refused (30_encoding.md R91). -/
def takeSlot (x : Slot) (s : State) : Host.Outcome State Fault Refusal :=
  match x with
  | .hostTurn => hostTurn s
  | .word w =>
    match decode s.params.wCnt w with
    | .error _ => .next (s.refuse .illegalWord)
    | .ok i => exec i s

end Sys2Proof.Machine
end

