-- ==== Sys2Proof/Machine/Step.lean ====
section
/-! DEFINITION. One step of a node: the next slot of the operation stream (10_state.md R41, 20_memory.md R69). -/

namespace Sys2Proof.Machine

/-- The next slot is taken. The position moves first, since no operation reads it (log 2). -/
def step (s : State) : Host.Outcome State Fault Refusal :=
  match s.slot with
  | none => .fault .streamExhausted
  | some x => takeSlot x s.advance

/-- The word placed where the next step reads it (log 2, log 22). -/
def State.withFetchWord (s : State) (nbits w : Nat) : State :=
  { s with stream := placeSlot s.stream s.pos (.word (BitVec.ofNat 40 (w % 2 ^ nbits))) }

end Sys2Proof.Machine
end

