-- ==== Sys2Proof/Machine/Pair.lean ====
section
/-! DEFINITION. Two nodes and the channel between them (60_exceptions.md R272, R275). The host's `step` is one node's;
this file adds what joins two (log 18). -/

namespace Sys2Proof.Machine

/-- The named instances of the parameter `CHANNEL` (R275, D37), `unconstrained` being the spec's `any`; none is the
default. -/
inductive Channel where
  | ideal
  | lossy
  | unconstrained
  deriving DecidableEq, Repr

/-- Whether `xs` is a subsequence of `ys`, in order. -/
def isSubsequence : List Byte → List Byte → Bool
  | [], _ => true
  | _ :: _, [] => false
  | x :: xs, y :: ys => if x = y then isSubsequence xs ys else isSubsequence (x :: xs) ys

/-- How a channel relates the bytes sent and the bytes arrived in a whole run of the pair (R275): `ideal` delivers exactly
those sent, in order. -/
def Channel.relates (c : Channel) (sent arrived : List Byte) : Bool :=
  match c with
  | .ideal => arrived == sent
  | .lossy => isSubsequence arrived sent
  | .unconstrained => true

/-- Whether the bytes that have arrived so far may have come from those sent so far, some of which may still arrive. Asked at every arrival, it says also
that each arrival comes after the `TRYSEND` that sent it (R275). -/
def Channel.admits (c : Channel) (sent arrived : List Byte) : Bool :=
  match c with
  | .ideal => arrived.isPrefixOf sent
  | .lossy => isSubsequence arrived sent
  | .unconstrained => true

/-- A sender node `S`, a display node `D`, and the operands of `D`'s `RX_ARRIVE` steps so far, oldest first. -/
structure NodePair where
  sender  : State
  display : State
  arrived : List Byte
  deriving DecidableEq, Repr

/-- Which node moves next; nothing synchronises them (R272). -/
inductive Turn where
  | sender
  | display
  deriving DecidableEq, Repr

/-- The byte the node's next step receives, when it is an `RX_ARRIVE`. -/
def arrivalAt (s : State) : Option Byte :=
  match s.slot with
  | some (.word w) =>
    match decode s.params.wCnt w with
    | .ok (.rxArrive b) => some b
    | _ => none
  | _ => none

/-- One step of the pair: one node steps, the other keeps its state; none where the node stops, or where the channel does
not admit the byte the display node would receive. -/
def pairStep (c : Channel) (who : Turn) (n : NodePair) : Option NodePair :=
  match who with
  | .sender =>
    match step n.sender with
    | .next s => some { n with sender := s }
    | _ => none
  | .display =>
    let arrived := n.arrived ++ (arrivalAt n.display).toList
    match step n.display with
    | .next s => if c.admits n.sender.link.txLog arrived then some { n with display := s, arrived := arrived } else none
    | _ => none

/-- A run of the pair: an interleaving of two single-node runs (R272). -/
def pairRun (c : Channel) : List Turn → NodePair → Option NodePair
  | [], n => some n
  | who :: rest, n => (pairStep c who n).bind (pairRun c rest)

/-- Whether a node's run has ended (70_reset_and_hazards.md R316). -/
def State.ended (s : State) : Bool := s.slot.isNone

/-- A whole run of the pair: both nodes' runs have ended and the channel relates all that was sent to all that has arrived
(R275); none where an ideal channel still owes a byte. -/
def wholePairRun (c : Channel) (turns : List Turn) (n : NodePair) : Option NodePair :=
  (pairRun c turns n).filter (fun m =>
    m.sender.ended && m.display.ended && c.relates m.sender.link.txLog m.arrived)

end Sys2Proof.Machine
end

