-- ==== Sys2Proof/Safety.lean ====
section
/-! DEFINITION. The terms claims are stated in: runs of operations, when a run supports a claim, the invariant of a node,
the edges of the output lines. -/

namespace Sys2Proof.Machine

/-- Some operations one after another, as a run takes them (20_memory.md R69), stopping at the first that stops. -/
def runOps : List Instr → State → Host.Outcome State Fault Refusal
  | [], s => .next s
  | i :: rest, s =>
    match exec i s with
    | .next t => runOps rest t
    | .fault r => .fault r
    | .refused r => .refused r

/-- `k` turns of the host agent with nothing of the environment between them (44_host_scheduler_fsm.md R233). -/
def hostTurns : Nat → State → Host.Outcome State Fault Refusal
  | 0, s => .next s
  | k + 1, s =>
    match hostTurn s with
    | .next t => hostTurns k t
    | .fault r => .fault r
    | .refused r => .refused r

/-- An endless run of a node (70_reset_and_hazards.md R316: a real node's main loop never ends), place by place, for the
claims that rest on fairness. The places come from the run, not from the stream of the states. -/
structure Run where
  slots  : Nat → Slot
  states : Nat → State
  steps  : ∀ n, takeSlot (slots n) (states n) = .next (states (n + 1))

/-- Place `n` of the run is a word of operation `i`. -/
def Run.takes (r : Run) (n : Nat) (i : Instr) : Prop :=
  ∃ w, r.slots n = .word w ∧ decode (r.states n).params.wCnt w = .ok i

/-- Fairness (a) (R306): while `ARMED` is true, `CMP_EVENT` is taken again and again. -/
def Run.FairTick (r : Run) : Prop :=
  ∀ n, (∀ m, n ≤ m → (r.states m).tick.armed = true) → ∃ m, n ≤ m ∧ r.takes m .cmpEvent

/-- Fairness (b) (R306): while `TXREADY` is false, `TX_DONE` is eventually taken. -/
def Run.FairTransmit (r : Run) : Prop :=
  ∀ n, (r.states n).link.txReady = false → ∃ m, n ≤ m ∧ r.takes m .txDone

/-- Fairness, all that the model keeps of time (R306, R315). Its clause (c), that an analog read returns, holds of every
run, since `adcRead` is a function. -/
def Run.Fair (r : Run) : Prop := r.FairTick ∧ r.FairTransmit

/-- Nothing but turns of the host agent and steps of the environment: no host operation from outside the agent. -/
def Run.ByAgents (r : Run) (n : Nat) : Prop :=
  ∀ m, n ≤ m → r.slots m = .hostTurn ∨ ∃ i, r.takes m i ∧ i.isEnvironment = true

/-- The host agent keeps taking turns. No rule bounds how many steps fall between two of them (R306). -/
def Run.HostRecurs (r : Run) : Prop := ∀ n, ∃ m, n ≤ m ∧ r.slots m = .hostTurn

/-- The run so far supports claims: nothing was refused (60_exceptions.md R261). -/
def Supported (s : State) : Prop := s.refused = false

/-- The run so far supports claims about received data (10_state.md R36). -/
def ReceiveSupported (s : State) : Prop := Supported s ∧ s.link.rxOvr = false

/-- The run has ended and is final (70_reset_and_hazards.md R316). -/
def Final (s : State) : Prop := s.stream.length ≤ s.pos ∧ s.refused = false

/-- What holds of a node in every state of a run, by 10_state.md R23, R24, R26, R27, R28, R32, R35, R43 and
44_host_scheduler_fsm.md R231, R232, R240, R243. -/
structure Invariant (s : State) : Prop where
  /-- The parameters are legal (00_scope.md R10). -/
  legal : s.params.Legal
  /-- `CNT` and `RELOAD` are values of `W_CNT` bits (R23, R24). -/
  cntFits : fitsWidth s.params.wCnt s.tick.cnt = true
  reloadFits : fitsWidth s.params.wCnt s.tick.reload = true
  /-- While armed, neither is zero (R26). -/
  counting : s.tick.armed = true → s.tick.cnt ≠ 0 ∧ s.tick.reload ≠ 0
  /-- Between two `SEND` every line is low (R27). -/
  idle : s.shout.port = 0x00
  /-- The observation holds whole sends, 26 writes each (41_shift_out.md R141). -/
  wholeSends : s.shout.portLog.length % 26 = 0
  /-- While the transmitter is busy, `TXDATA` is the byte last sent (R32, R35). -/
  inFlight : s.link.txReady = false → s.link.txLog.getLast? = some s.link.txData
  /-- The integers of every task have `W_ELAPSED` bits (R232). -/
  taskWidths : ∀ t ∈ s.host.tasks,
    fitsWidth s.params.wElapsed t.elapsed = true ∧ fitsWidth s.params.wElapsed t.periodTicks = true
  /-- The tasks are those the host registered at startup, in their order (R231, R232), so that each machine has the one
  owner that the legal parameters give it (R240). -/
  registered : s.host.tasks.map (fun t => (⟨t.periodTicks, t.action⟩ : TaskSpec)) = s.params.tasks
  /-- The display node's pattern has exactly one bit set (R243). -/
  onePattern : singleBit s.host.pat = true

/-- The indices of the writes in which a line rises, from the level the port held before (41_shift_out.md R144). -/
def risingEdges (line : Line) : Byte → List Byte → Nat → List Nat
  | _, [], _ => []
  | old, m :: rest, n =>
    if rises line old m then n :: risingEdges line m rest (n + 1) else risingEdges line m rest (n + 1)

/-- The indices of the writes in which a line falls. -/
def fallingEdges (line : Line) : Byte → List Byte → Nat → List Nat
  | _, [], _ => []
  | old, m :: rest, n =>
    if rises line m old then n :: fallingEdges line m rest (n + 1) else fallingEdges line m rest (n + 1)

/-- The rows of spec/opcode_table.json, `(match, mask)`, written for `W_CNT = 32` (30_encoding.md R92). -/
def opcodeRows : List (OpWord × OpWord) :=
  [ (0x0100000000, 0xFF00000000), (0x0200000000, 0xFFFFFFFFFF), (0x0300000000, 0xFF00000000)
  , (0x0400000000, 0xFFFFFFFFFF), (0x0500000000, 0xFFFFFFFFFF), (0x1000000000, 0xFFFFFFFF00)
  , (0x2000000000, 0xFFFC00FC00), (0x2100000000, 0xFFFFFFFFFF), (0x3000000000, 0xFFFFFFFFE0)
  , (0x3100000000, 0xFFFFFFFF00), (0x3200000000, 0xFFFFFFFF00), (0x3300000000, 0xFFFFFFFFFF)
  , (0x3400000000, 0xFFFFFFFFFF), (0x8000000000, 0xFFFFFFFFFF), (0x9000000000, 0xFFFFFFFF00)
  , (0x9100000000, 0xFFFFFFFFFF) ]

end Sys2Proof.Machine
end

