-- ==== Sys2Proof/Certificates/Slice0/Obligations.lean ====
section
/-! DEFINITION. The statements for the provers. A docstring names the rule of spec/ each formalises, and the log entry
(notes/assumptions) where a clause rests on the model's own choice. Equations of whole states say the frame as well:
every field the record update does not name is unchanged. -/

open Sys2Proof Sys2Proof.Machine

/-! ## Encoding (30_encoding.md) -/

/-- R93, R90: the words the spec writes out decode to the operations they stand for. -/
def Obligations.DecodeReadsSpecWords : Prop :=
  decode 32 0x0100000003 = .ok (.arm 3) ∧
  decode 32 0x1000000001 = .ok (.send 0x01) ∧
  decode 32 0x2003FF0200 = .ok (.classify 512 1023) ∧
  decode 32 0x3000000018 = .ok (.encode .up true) ∧
  decode 32 0x8000000000 = .ok .cmpEvent ∧
  decode 32 0x9000000002 = .ok (.rxArrive 0x02)

/-- R86 to R92: decoding the word of a well-formed operation gives it back, at every legal `W_CNT`. -/
def Obligations.EncodeThenDecodeIsIdentity : Prop :=
  ∀ (wCnt : Nat) (i : Instr), 1 ≤ wCnt → wCnt ≤ 32 → i.wf wCnt = true → decode wCnt (encode i) = .ok i

/-- R87, R92: a word that decodes is the word of the operation it decodes to, which is well-formed: no bit of a legal
word is ignored, so each operation has one word. -/
def Obligations.DecodedWordIsItsEncoding : Prop :=
  ∀ (wCnt : Nat) (w : OpWord) (i : Instr), decode wCnt w = .ok i → encode i = w ∧ i.wf wCnt = true

/-- R91, R92 at `W_CNT = 32`: the legal words are those a row of the opcode table selects, less the `ENCODE` words whose
`d` is no `DIR4`. -/
def Obligations.LegalWordsAreTheTableRows : Prop :=
  ∀ w : OpWord,
    (∃ i, decode 32 w = .ok i) ↔
      ((∃ r ∈ opcodeRows, w &&& r.2 = r.1) ∧
        (w.extractLsb' 32 8 = 0x30 →
          w.extractLsb' 0 4 = 0b0000 ∨ w.extractLsb' 0 4 = 0b0001 ∨ w.extractLsb' 0 4 = 0b0010 ∨
          w.extractLsb' 0 4 = 0b0100 ∨ w.extractLsb' 0 4 = 0b1000))

/-! ## One step and one run (10_state.md R41, 20_memory.md R69) -/

/-- R41, R69: a step at a word that decodes is that operation's `exec`, after the position has moved past the word. The
stream and the position in the state are the model's (log 2). -/
def Obligations.StepRunsDecodedInstruction : Prop :=
  ∀ (s : State) (w : OpWord) (i : Instr),
    s.stream[s.pos]? = some (.word w) → decode s.params.wCnt w = .ok i →
      step s = exec i { s with pos := s.pos + 1 }

/-- R91, R261: a step at an illegal word leaves everything as it was but `REFUSED`, which is set, and the reason handed
back. That a refusal is a next state and that the position moves on is the model's reading (log 1). -/
def Obligations.IllegalWordIsRefused : Prop :=
  ∀ (s : State) (w : OpWord) (e : Reject),
    s.stream[s.pos]? = some (.word w) → decode s.params.wCnt w = .error e →
      step s = .next { s with refused := true, answer := .refuse .illegalWord, pos := s.pos + 1 }

/-- R316: the run ends exactly when the stream is exhausted. That the end is a named stop is the model's (log 11). -/
def Obligations.RunEndsExactlyWithTheStream : Prop :=
  ∀ s : State, step s = .fault .streamExhausted ↔ s.stream.length ≤ s.pos

/-- R72, R41: no step changes the stream or the parameters, and each moves the position by one (log 2). -/
def Obligations.StreamAndParametersNeverChange : Prop :=
  ∀ s t : State, step s = .next t → t.stream = s.stream ∧ t.params = s.params ∧ t.pos = s.pos + 1

/-- R36, R41: no step clears `REFUSED` or `RXOVR`. -/
def Obligations.RefusedAndOverrunAreSticky : Prop :=
  ∀ s t : State, step s = .next t →
    (s.refused = true → t.refused = true) ∧ (s.link.rxOvr = true → t.link.rxOvr = true)

/-! ## Reset (10_state.md R40, 70_reset_and_hazards.md R290, R291) -/

/-- R40: the reset value of every piece of state the table gives one, whatever the parameters and whatever the
unspecified registers hold. The fixed values are the spec's decision D29 (log 20). -/
def Obligations.PowerOnValuesAreTheTable : Prop :=
  ∀ (p : Params) (u : PowerOnValues),
    (State.powerOn p u).tick.armed = false ∧ (State.powerOn p u).tick.tickPending = false ∧
    (State.powerOn p u).shout.port = 0x00 ∧ (State.powerOn p u).shout.portLog = [] ∧
    (State.powerOn p u).link.txLog = [] ∧ (State.powerOn p u).link.txReady = true ∧
    (State.powerOn p u).link.rxFull = false ∧ (State.powerOn p u).link.rxOvr = false ∧
    (State.powerOn p u).tick.reload = u.reload ∧ (State.powerOn p u).tick.cnt = u.cnt ∧
    (State.powerOn p u).chip.sr = u.sr ∧ (State.powerOn p u).chip.q = u.q ∧
    (State.powerOn p u).link.txData = u.txData ∧ (State.powerOn p u).link.rxData = u.rxData

/-- The invariant holds after power-on with any legal parameters and any unspecified values of the registers' width, and
of `State.reset`, whose choices are the model's (log 4, log 6). -/
def Obligations.PowerOnMeetsTheInvariant : Prop :=
  (∀ (p : Params) (u : PowerOnValues), p.Legal → fitsWidth p.wCnt u.cnt = true → fitsWidth p.wCnt u.reload = true →
    Invariant (State.powerOn p u)) ∧
  Invariant State.reset

/-- R23, R24, R26, R27, R32, R232, R243: every step of a node, an operation of the stream or a turn of the host agent, keeps
the invariant. Its clauses on whole sends and on the busy transmitter are inferred from R141 and R199. -/
def Obligations.StepKeepsTheInvariant : Prop :=
  ∀ s t : State, Invariant s → step s = .next t → Invariant t

/-! ## Unit TICK (40_tick_source.md) -/

/-- R111: `ARM M` loads both registers and starts the timer; nothing else changes, `TICKPENDING` included (R310); also
while already armed (R126). -/
def Obligations.ArmLoadsAndStarts : Prop :=
  ∀ (s : State) (m : Count), m.toNat < 2 ^ s.params.wCnt → m ≠ 0 →
    exec (.arm m) s =
      .next { s with tick := { armed := true, reload := m, cnt := m, tickPending := s.tick.tickPending }, answer := .nothing }

/-- R112: `DISARM` clears `ARMED` and nothing else, and no compare event has a step after it. That the flag keeps its value
and that a disarmed event is no step are the spec's decisions D6 and D11. -/
def Obligations.DisarmStopsCompareEvents : Prop :=
  ∀ s : State, ∃ t : State,
    exec .disarm s = .next t ∧ t = { s with tick := { s.tick with armed := false }, answer := .nothing } ∧
    ∀ u : State, exec .cmpEvent t ≠ .next u

/-- R113: `SETPERIOD M` writes `RELOAD` and nothing else, the count in progress included, armed or not. -/
def Obligations.SetPeriodWritesReloadOnly : Prop :=
  ∀ (s : State) (m : Count), m.toNat < 2 ^ s.params.wCnt → m ≠ 0 →
    exec (.setPeriod m) s = .next { s with tick := { s.tick with reload := m }, answer := .nothing }

/-- R121, R261: `ARM 0` and `SETPERIOD 0` are turned away with none of their effect. That a refusal is a next state with
`REFUSED` set is the model's reading of R261 (log 1). -/
def Obligations.PeriodZeroIsRefused : Prop :=
  ∀ s : State,
    exec (.arm 0) s = .next { s with refused := true, answer := .refuse .periodZero } ∧
    exec (.setPeriod 0) s = .next { s with refused := true, answer := .refuse .periodZero }

/-- R114: `POLL` returns `TICKPENDING` and changes no state. -/
def Obligations.PollReturnsTheFlag : Prop :=
  ∀ s : State, exec .poll s = .next { s with answer := .poll s.tick.tickPending }

/-- R115: `ACK` clears `TICKPENDING`, set or not, and nothing else. That it is legal on a clear flag is the spec's decision
D9. -/
def Obligations.AckClearsTheFlag : Prop :=
  ∀ s : State, exec .ack s = .next { s with tick := { s.tick with tickPending := false }, answer := .nothing }

/-- R118: a compare event while armed computes `c = (CNT - 1) mod 2^W_CNT`; at zero it sets the flag and reloads, else it
stores `c`; nothing else changes. While disarmed it has no step (the spec's decision D11). -/
def Obligations.CompareEventCountsDown : Prop :=
  ∀ s : State, s.params.wCnt ≤ 32 →
    (s.tick.armed = true → ∃ c : Count,
      (c.toNat : Int) = ((s.tick.cnt.toNat : Int) - 1) % (2 ^ s.params.wCnt : Int) ∧
      exec .cmpEvent s = .next { s with tick :=
        if c = 0 then { s.tick with tickPending := true, cnt := s.tick.reload } else { s.tick with cnt := c } }) ∧
    (s.tick.armed = false → ∀ t : State, exec .cmpEvent s ≠ .next t)

/-- R26: an `ARM` that is not refused makes `CNT` and `RELOAD` at least 1, and no operation undoes that. -/
def Obligations.CountersStayPositiveOnceArmed : Prop :=
  (∀ (s t : State) (m : Count), exec (.arm m) s = .next t → t.answer = .nothing → t.tick.cnt ≠ 0 ∧ t.tick.reload ≠ 0) ∧
  (∀ (i : Instr) (s t : State), s.tick.cnt ≠ 0 → s.tick.reload ≠ 0 → exec i s = .next t →
    t.tick.cnt ≠ 0 ∧ t.tick.reload ≠ 0)

/-- R124: from a state with no tick pending, `ARM M` and compare events without `ACK`: the flag is false after each of
the first `M - 1` events and true after the `M`-th. -/
def Obligations.FirstTickAfterExactlyM : Prop :=
  ∀ (s : State) (m : Count) (k : Nat), s.params.wCnt ≤ 32 → m.toNat < 2 ^ s.params.wCnt → m ≠ 0 →
    s.tick.tickPending = false → k ≤ m.toNat →
      ∃ t : State, runOps (.arm m :: List.replicate k .cmpEvent) s = .next t ∧
        t.tick.tickPending = decide (k = m.toNat)

/-- R119: after `ARM M`, `CNT` after `k` events is `M - (k mod M)`, and event `k + 1` finding a cleared flag sets it
exactly when `k + 1` is a multiple of `M`. -/
def Obligations.PeriodLawAfterArm : Prop :=
  ∀ (s : State) (m : Count) (k : Nat), s.params.wCnt ≤ 32 → m.toNat < 2 ^ s.params.wCnt → m ≠ 0 →
    ∃ t u : State, runOps (.arm m :: List.replicate k .cmpEvent) s = .next t ∧
      t.tick.cnt.toNat = m.toNat - k % m.toNat ∧
      exec .cmpEvent { t with tick := { t.tick with tickPending := false } } = .next u ∧
      u.tick.tickPending = decide ((k + 1) % m.toNat = 0)

/-- R122: after `SETPERIOD M'` in an armed state with count `c` and no tick pending, the flag is first set by the `c`-th
event, whatever `M'` is, and that event loads `M'`. -/
def Obligations.NewPeriodStartsAtTheReload : Prop :=
  ∀ (s : State) (m : Count) (k : Nat), s.params.wCnt ≤ 32 → m.toNat < 2 ^ s.params.wCnt → m ≠ 0 →
    s.tick.armed = true → s.tick.cnt ≠ 0 → s.tick.cnt.toNat < 2 ^ s.params.wCnt → s.tick.tickPending = false →
    k ≤ s.tick.cnt.toNat →
      ∃ t : State, runOps (.setPeriod m :: List.replicate k .cmpEvent) s = .next t ∧
        t.tick.tickPending = decide (k = s.tick.cnt.toNat) ∧
        t.tick.cnt.toNat = (if k = s.tick.cnt.toNat then m.toNat else s.tick.cnt.toNat - k)

/-- R120: any number of ticks raised before an `ACK` is consumed by it, and a reload between `POLL` and `ACK` is lost
where the other order keeps it. -/
def Obligations.TicksAreNotQueued : Prop :=
  (∀ (s : State) (n : Nat), s.tick.armed = true →
    ∃ t : State, runOps (List.replicate n .cmpEvent ++ [.ack]) s = .next t ∧ t.tick.tickPending = false) ∧
  (∀ s : State, 1 ≤ s.params.wCnt → s.params.wCnt ≤ 32 → s.tick.armed = true → s.tick.cnt = 1 →
    ∃ t u : State,
      runOps [.poll, .cmpEvent, .ack] s = .next t ∧ t.tick.tickPending = false ∧
      runOps [.poll, .ack, .cmpEvent] s = .next u ∧ u.tick.tickPending = true)

/-! ## Unit SHOUT and the downstream chip (41_shift_out.md) -/

/-- R84, R147: each line of a mask is at its own bit, a mask without a clear line has that bit 0, and every other bit
is 0; with the default positions the mask is `{0000, CLR, RCLK, SRCLK, SER}`. The positions are the spec's decision D13. -/
def Obligations.PortMaskCarriesTheLines : Prop :=
  (∀ ser srclk rclk clr : Bool, (portMask Config.default ser srclk rclk clr).toNat =
    clr.toNat * 8 + rclk.toNat * 4 + srclk.toNat * 2 + ser.toNat) ∧
  ∀ (p : Params) (ser srclk rclk clr : Bool), p.Legal →
    (portMask p ser srclk rclk clr).getLsbD p.posSer = ser ∧
    (portMask p ser srclk rclk clr).getLsbD p.posSrclk = srclk ∧
    (portMask p ser srclk rclk clr).getLsbD p.posRclk = rclk ∧
    (portMask p ser srclk rclk clr).getLsbD p.posClr = (p.hasClr && clr) ∧
    ∀ k : Fin 8, k ≠ p.posSer → k ≠ p.posSrclk → k ≠ p.posRclk → k ≠ p.posClr →
      (portMask p ser srclk rclk clr).getLsbD k = false

/-- R141: `SEND` appends its 26 masks, leaves every line low, lets the chip react to each write in order, and changes
nothing else. The literal masks and their count are choices R142 marks as the spec's own (D14, D15): a claim safe against
the other readings is SendEdgeLaw. That the 26 writes are one step is log 12. -/
def Obligations.SendMakesTheTwentySixWrites : Prop :=
  ∀ (s : State) (pattern : Byte), ∃ masks : List Byte,
    masks = (List.range 8).flatMap (fun i =>
        [ portMask s.params false false false true
        , portMask s.params (pattern.getLsbD i) false false true
        , portMask s.params (pattern.getLsbD i) true false true ])
      ++ [ portMask s.params (pattern.getLsbD 7) true true true, portMask s.params false false false false ] ∧
    masks.length = 26 ∧
    exec (.send pattern) s = .next { s with
      shout := { port := 0x00, portLog := s.shout.portLog ++ masks }
      chip := (masks.foldl (fun a m => (m, chipReact s.params a.1 m a.2)) (s.shout.port, s.chip)).2
      answer := .nothing }

/-- R152: one port write drives all lines, is logged, and moves the chip by its edges. The clear clause is general
knowledge the spec supplies (G1; log 19). -/
def Obligations.ChipReactsToPortWrites : Prop :=
  ∀ (s : State) (m : Byte),
    (portWrite s m).shout = { port := m, portLog := s.shout.portLog ++ [m] } ∧
    (s.params.hasClr = true → m.getLsbD s.params.posClr = false → (portWrite s m).chip.sr = 0x00) ∧
    ((s.params.hasClr = false ∨ m.getLsbD s.params.posClr = true) →
      (s.shout.port.getLsbD s.params.posSrclk = false ∧ m.getLsbD s.params.posSrclk = true →
        (portWrite s m).chip.sr.getLsbD 0 = m.getLsbD s.params.posSer ∧
        ∀ k : Nat, k < 7 → (portWrite s m).chip.sr.getLsbD (k + 1) = s.chip.sr.getLsbD k) ∧
      (¬(s.shout.port.getLsbD s.params.posSrclk = false ∧ m.getLsbD s.params.posSrclk = true) →
        (portWrite s m).chip.sr = s.chip.sr)) ∧
    (s.shout.port.getLsbD s.params.posRclk = false ∧ m.getLsbD s.params.posRclk = true →
      (portWrite s m).chip.q = s.chip.sr) ∧
    (¬(s.shout.port.getLsbD s.params.posRclk = false ∧ m.getLsbD s.params.posRclk = true) →
      (portWrite s m).chip.q = s.chip.q)

/-- R153, R83: after `SEND`, whatever the chip held before, the outputs are the pattern with its bits reversed; the chain
is cleared where there is a clear line (G1; log 19) and equals the outputs where there is none. -/
def Obligations.SendShowsThePatternReversed : Prop :=
  ∀ (s : State) (pattern : Byte), s.params.Legal →
    ∃ t : State, exec (.send pattern) s = .next t ∧
      (∀ k : Nat, k < 8 → t.chip.q.getLsbD k = pattern.getLsbD (7 - k)) ∧
      t.chip.sr = (if s.params.hasClr = true then 0x00 else t.chip.q)

/-- R144: in the writes one `SEND` from an idle port appends, the shift clock rises at W3 of each bit, where the data
line holds that bit and held it the write before; the latch clock rises once, after all of them; the clear line, where
there is one, rises at the first write and falls at the last. -/
def Obligations.SendEdgeLaw : Prop :=
  ∀ (s t : State) (pattern : Byte), s.params.Legal → s.shout.port = 0x00 → exec (.send pattern) s = .next t →
    ∃ masks : List Byte, t.shout.portLog = s.shout.portLog ++ masks ∧ masks.length = 26 ∧
      risingEdges s.params.posSrclk s.shout.port masks 0 = [2, 5, 8, 11, 14, 17, 20, 23] ∧
      risingEdges s.params.posRclk s.shout.port masks 0 = [24] ∧
      (s.params.hasClr = true →
        risingEdges s.params.posClr s.shout.port masks 0 = [0] ∧
        fallingEdges s.params.posClr s.shout.port masks 0 = [25]) ∧
      ∀ i : Nat, i < 8 →
        (masks.getD (3 * i + 2) 0).getLsbD s.params.posSer = pattern.getLsbD i ∧
        (masks.getD (3 * i + 1) 0).getLsbD s.params.posSer = pattern.getLsbD i

/-- R150: a compare event, or another step of the environment, between any two of the writes of a `SEND` gives the state of
the whole `SEND` followed by that step, and of the step followed by the whole `SEND`; so a `SEND` may be one step (log 12). -/
def Obligations.CompareEventMayFallInsideSend : Prop :=
  ∀ (s t : State) (i : Instr) (pattern : Byte) (first rest : List Byte),
    i.isEnvironment = true → first ++ rest = sendMasks s.params pattern → exec i (first.foldl portWrite s) = .next t →
      runOps [.send pattern, i] s = .next ((rest.foldl portWrite t).hand .nothing) ∧
      runOps [i, .send pattern] s = .next ((rest.foldl portWrite t).hand .nothing)

/-! ## Unit DIRDEC (42_direction_decoder.md) -/

/-- R172: `CLASSIFY` returns the first of the four directions whose comparison holds, in the spec's order, else
`Neutral`, and changes no state. -/
def Obligations.ClassifyByThresholds : Prop :=
  ∀ (s : State) (x y : Sample),
    exec (.classify x y) s = .next { s with answer := .direction (
      if 1000 < y.toNat ∧ 100 < x.toNat ∧ x.toNat < 900 then .up
      else if y.toNat < 50 ∧ 100 < x.toNat ∧ x.toNat < 900 then .down
      else if 1000 < x.toNat ∧ 100 < y.toNat ∧ y.toNat < 900 then .right
      else if x.toNat < 50 ∧ 100 < y.toNat ∧ y.toNat < 900 then .left
      else .neutral) }

/-- R173: each direction is returned exactly where its own predicate holds, so no pair satisfies two and the order of the
checks never decides. -/
def Obligations.DirectionRegionsAreDisjoint : Prop :=
  ∀ x y : Sample,
    (classify x y = .up ↔ 1000 < y.toNat ∧ 100 < x.toNat ∧ x.toNat < 900) ∧
    (classify x y = .down ↔ y.toNat < 50 ∧ 100 < x.toNat ∧ x.toNat < 900) ∧
    (classify x y = .right ↔ 1000 < x.toNat ∧ 100 < y.toNat ∧ y.toNat < 900) ∧
    (classify x y = .left ↔ x.toNat < 50 ∧ 100 < y.toNat ∧ y.toNat < 900)

/-- R175: how many of the 1048576 sample pairs each direction has. -/
def Obligations.DirectionRegionSizes : Prop :=
  ∀ d : Direction,
    (((Finset.range 1024) ×ˢ (Finset.range 1024)).filter
      (fun q => classify (BitVec.ofNat 10 q.1) (BitVec.ofNat 10 q.2) = d)).card =
    (match d with
      | .up => 18377
      | .down => 39950
      | .right => 18377
      | .left => 39950
      | .neutral => 931922)

/-- R176: `SAMPLE_DIR` classifies two fresh draws, x first, and changes no state of the block. The scripted answers and the
free values behind them are the model's form of the oracle (log 8): the statement holds for every one of them. -/
def Obligations.SampleDirClassifiesTwoDraws : Prop :=
  (∀ (s : State) (x y : Sample) (rest : List Sample), s.oracles.adc.script = x :: y :: rest →
    exec .sampleDir s = .next { s with
      oracles := { s.oracles with adc := { script := rest, used := s.oracles.adc.used + 2 } }
      answer := .direction (classify x y) }) ∧
  (∀ (s : State) (x : Sample), s.oracles.adc.script = [x] →
    exec .sampleDir s = .next { s with
      oracles := { s.oracles with adc := { script := [], used := s.oracles.adc.used + 2 } }
      answer := .direction (classify x (Config.adcFree (s.oracles.adc.used + 1) s.params.chY)) }) ∧
  (∀ s : State, s.oracles.adc.script = [] →
    exec .sampleDir s = .next { s with
      oracles := { s.oracles with adc := { script := [], used := s.oracles.adc.used + 2 } }
      answer := .direction (classify (Config.adcFree s.oracles.adc.used s.params.chX)
        (Config.adcFree (s.oracles.adc.used + 1) s.params.chY)) })

/-! ## Unit LINK (43_link_codec.md) -/

/-- R191: `ENCODE` returns the frame whose five used bits are the direction, one-hot, and the flag, bits 5 to 7 clear, and
changes no state. -/
def Obligations.EncodePacksTheFrame : Prop :=
  ∀ (s : State) (d : Direction) (f : Bool), ∃ frame : Byte,
    exec (.encode d f) s = .next { s with answer := .frame frame } ∧
    frame.getLsbD 0 = (d == .left) ∧ frame.getLsbD 1 = (d == .right) ∧ frame.getLsbD 2 = (d == .down) ∧
    frame.getLsbD 3 = (d == .up) ∧ frame.getLsbD 4 = f ∧ frame.extractLsb' 5 3 = 0b000

/-- R194: `DECODE` returns the direction nibble when at most one of its bits is set and else none, bit 4, and whether the
byte is a frame (this third result is the spec's own, R196), and changes no state. Where it is not valid, the other two
results are to be ignored (R196; log 13). -/
def Obligations.DecodeUnpacksTheFrame : Prop :=
  ∀ (s : State) (b : Byte), ∃ (d : Direction) (valid : Bool),
    exec (.decode b) s = .next { s with answer := .decoded d (b.getLsbD 4) valid } ∧
    (valid = true ↔ b.extractLsb' 5 3 = 0b000 ∧
      (b.getLsbD 0).toNat + (b.getLsbD 1).toNat + (b.getLsbD 2).toNat + (b.getLsbD 3).toNat ≤ 1) ∧
    d.dir4 = (if (b.getLsbD 0).toNat + (b.getLsbD 1).toNat + (b.getLsbD 2).toNat + (b.getLsbD 3).toNat ≤ 1 then
      b.extractLsb' 0 4 else 0b0000)

/-- R195: `DECODE` of what `ENCODE` returned gives back the direction and the flag, valid; and `ENCODE` of a valid decode
gives back the byte. -/
def Obligations.FrameRoundTrip : Prop :=
  (∀ (s : State) (d : Direction) (f : Bool), ∃ (frame : Byte) (t : State),
    exec (.encode d f) s = .next t ∧ t.answer = .frame frame ∧
    exec (.decode frame) t = .next { s with answer := .decoded d f true }) ∧
  (∀ (s t : State) (b : Byte) (d : Direction) (f : Bool),
    exec (.decode b) s = .next t → t.answer = .decoded d f true →
      exec (.encode d f) t = .next { s with answer := .frame b })

/-- R82, R196: `DECODE` reports a valid frame for exactly the ten canonical bytes, the other 246 never. -/
def Obligations.TenCanonicalFrames : Prop :=
  ∀ (s : State) (b : Byte),
    (∃ (d : Direction) (f : Bool), exec (.decode b) s = .next { s with answer := .decoded d f true }) ↔
      b ∈ ([0x00, 0x10, 0x01, 0x11, 0x02, 0x12, 0x04, 0x14, 0x08, 0x18] : List Byte)

/-- R199: `TRYSEND` hands the byte to a ready transmitter, or returns false and changes no state. -/
def Obligations.TrySendTakesOrDrops : Prop :=
  ∀ (s : State) (b : Byte),
    (s.link.txReady = true →
      exec (.trySend b) s = .next { s with
        link := { s.link with txReady := false, txData := b, txLog := s.link.txLog ++ [b] }, answer := .sent true }) ∧
    (s.link.txReady = false → exec (.trySend b) s = .next { s with answer := .sent false })

/-- R201, the spec's decision D25: `TX_DONE` makes a busy transmitter ready and changes nothing else; a ready one has no
such step. In a run that is fair in the sense of R306 (b) a busy transmitter becomes ready again. -/
def Obligations.TxDoneFreesTheTransmitter : Prop :=
  ∀ s : State,
    (s.link.txReady = false → exec .txDone s = .next { s with link := { s.link with txReady := true } }) ∧
    (s.link.txReady = true → ∀ t : State, exec .txDone s ≠ .next t) ∧
    ∀ (r : Run) (n : Nat), r.FairTransmit → (r.states n).link.txReady = false →
      ∃ m, n < m ∧ (r.states m).link.txReady = true

/-- R203: `TRYRECEIVE` returns the byte in the slot or none, and empties the slot only where reading clears; that it
otherwise leaves the slot full is the spec's decision D24. -/
def Obligations.TryReceiveReadsTheSlot : Prop :=
  ∀ s : State,
    (s.link.rxFull = true →
      exec .tryReceive s = .next { s with
        link := { s.link with rxFull := !s.params.rxReadClears }, answer := .received (some s.link.rxData) }) ∧
    (s.link.rxFull = false → exec .tryReceive s = .next { s with answer := .received none })

/-- R204: `FLUSH` empties the slot, full or not, and changes nothing else: not `RXDATA`, not `RXOVR`. -/
def Obligations.FlushEmptiesTheSlot : Prop :=
  ∀ s : State, exec .flush s = .next { s with link := { s.link with rxFull := false }, answer := .nothing }

/-- R205: an arrival fills an empty slot; into a full one it is an overrun, which marks `RXOVR`, leaves `RXFULL` set and
leaves any byte in the slot. The scripted draw and the free value behind it are the model's form of that byte (log 9). -/
def Obligations.RxArriveFillsOrOverruns : Prop :=
  ∀ (s : State) (b : Byte),
    (s.link.rxFull = false →
      exec (.rxArrive b) s = .next { s with link := { s.link with rxFull := true, rxData := b } }) ∧
    (s.link.rxFull = true → s.oracles.overrun.script = [] →
      exec (.rxArrive b) s = .next { s with
        link := { s.link with rxData := Config.overrunFree s.oracles.overrun.used, rxOvr := true }
        oracles := { s.oracles with overrun := { script := [], used := s.oracles.overrun.used + 1 } } }) ∧
    (∀ (v : Byte) (rest : List Byte), s.link.rxFull = true → s.oracles.overrun.script = v :: rest →
      exec (.rxArrive b) s = .next { s with
        link := { s.link with rxData := v, rxOvr := true }
        oracles := { s.oracles with overrun := { script := rest, used := s.oracles.overrun.used + 1 } } })

/-! ## The whole block (10_state.md R37, 20_memory.md R73, 60_exceptions.md R260, R265) -/

/-- R73: an operation touches only the state of its own unit, and no operation touches the host, the parameters, the
stream or the position (log 2); `REFUSED` is set by `ARM` and `SETPERIOD` only; an environment step leaves `answer` as it
was (log 7). -/
def Obligations.UnitsShareNoState : Prop :=
  ∀ (i : Instr) (s t : State), exec i s = .next t →
    ((∀ m, i ≠ .arm m) → i ≠ .disarm → (∀ m, i ≠ .setPeriod m) → i ≠ .ack → i ≠ .cmpEvent → t.tick = s.tick) ∧
    ((∀ b, i ≠ .send b) → t.shout = s.shout ∧ t.chip = s.chip) ∧
    ((∀ b, i ≠ .trySend b) → i ≠ .tryReceive → i ≠ .flush → (∀ b, i ≠ .rxArrive b) → i ≠ .txDone → t.link = s.link) ∧
    (i ≠ .sampleDir → t.oracles.adc = s.oracles.adc) ∧ ((∀ b, i ≠ .rxArrive b) → t.oracles.overrun = s.oracles.overrun) ∧
    t.oracles.pin = s.oracles.pin ∧ t.host = s.host ∧ t.params = s.params ∧ t.stream = s.stream ∧ t.pos = s.pos ∧
    ((∀ m, i ≠ .arm m) → (∀ m, i ≠ .setPeriod m) → t.refused = s.refused) ∧
    (i.isEnvironment = true → t.answer = s.answer)

/-- R37, R25: which operations may change each piece of state, the flag rows with the direction of the change. -/
def Obligations.EveryFieldHasItsWriters : Prop :=
  ∀ (i : Instr) (s t : State), exec i s = .next t →
    (t.tick.armed ≠ s.tick.armed → (∃ m, i = .arm m) ∨ i = .disarm) ∧
    (t.tick.reload ≠ s.tick.reload → (∃ m, i = .arm m) ∨ ∃ m, i = .setPeriod m) ∧
    (t.tick.cnt ≠ s.tick.cnt → (∃ m, i = .arm m) ∨ i = .cmpEvent) ∧
    (s.tick.tickPending = false → t.tick.tickPending = true → i = .cmpEvent) ∧
    (s.tick.tickPending = true → t.tick.tickPending = false → i = .ack) ∧
    (t.shout ≠ s.shout → ∃ b, i = .send b) ∧ (t.chip ≠ s.chip → ∃ b, i = .send b) ∧
    (s.link.txReady = true → t.link.txReady = false → ∃ b, i = .trySend b) ∧
    (s.link.txReady = false → t.link.txReady = true → i = .txDone) ∧
    (t.link.txData ≠ s.link.txData ∨ t.link.txLog ≠ s.link.txLog → ∃ b, i = .trySend b) ∧
    (s.link.rxFull = false → t.link.rxFull = true → ∃ b, i = .rxArrive b) ∧
    (s.link.rxFull = true → t.link.rxFull = false → i = .flush ∨ (i = .tryReceive ∧ s.params.rxReadClears = true)) ∧
    (t.link.rxData ≠ s.link.rxData ∨ t.link.rxOvr ≠ s.link.rxOvr → ∃ b, i = .rxArrive b)

/-- R260, R118, R201, R205: the block raises nothing: a host operation and an arrival always have a next state, and the
two other environment steps have one exactly when enabled (the stop where they are not: log 10). That an `ARM` or
`SETPERIOD` the spec refuses has a next state is the model's reading (log 1). -/
def Obligations.EveryEnabledStepCompletes : Prop :=
  (∀ (i : Instr) (s : State), i.isEnvironment = false → ∃ t : State, exec i s = .next t) ∧
  (∀ (b : Byte) (s : State), ∃ t : State, exec (.rxArrive b) s = .next t) ∧
  (∀ s : State, (∃ t : State, exec .cmpEvent s = .next t) ↔ s.tick.armed = true) ∧
  (∀ s : State, (∃ t : State, exec .txDone s = .next t) ↔ s.link.txReady = false)

/-- R73: while armed, a compare event commutes with every operation of another unit. -/
def Obligations.CompareEventCommutesWithOtherUnits : Prop :=
  ∀ (i : Instr) (s : State), s.tick.armed = true →
    (∀ m, i ≠ .arm m) → i ≠ .disarm → (∀ m, i ≠ .setPeriod m) → i ≠ .poll → i ≠ .ack → i ≠ .cmpEvent →
      runOps [i, .cmpEvent] s = runOps [.cmpEvent, i] s

/-- R265: an arrival commutes with every host operation but `TRYRECEIVE` and `FLUSH`, and a transmitter completion with
every one but `TRYSEND`. -/
def Obligations.SerialHardwareCommutesWithHost : Prop :=
  (∀ (i : Instr) (b : Byte) (s : State), i.isEnvironment = false → i ≠ .tryReceive → i ≠ .flush →
    runOps [i, .rxArrive b] s = runOps [.rxArrive b, i] s) ∧
  (∀ (i : Instr) (s : State), i.isEnvironment = false → (∀ b, i ≠ .trySend b) → s.link.txReady = false →
    runOps [i, .txDone] s = runOps [.txDone, i] s)

/-! ## The host agent (44_host_scheduler_fsm.md) -/

/-- R262, R9: the host issues host operations only, so each of its turns has a next state (the turns: log 14; that a
refused `ARM` would have one too: log 1); and no operation that a host with legal parameters issues is refused, since it
rejects a zero period before `ARM` (R293 (3), R308). -/
def Obligations.HostTurnsNeverStop : Prop :=
  (∀ (p : Params) (h : HostAgent) (i : Instr), hostIssue p h = some i → i.isEnvironment = false) ∧
  (∀ s : State, ∃ t : State, hostTurn s = .next t) ∧
  (∀ s t : State, s.params.Legal → hostTurn s = .next t → t.refused = s.refused)

/-- R293 (3), (4): the host's first turn after power-on arms the tick source with its period and leaves the host at the top
of its main loop: at the receive slot on a display node fed by the link, at the wait for a tick on the others (log 14). -/
def Obligations.BootArmsThenEntersTheLoop : Prop :=
  ∀ (p : Params) (u : PowerOnValues), p.armPeriod.toNat < 2 ^ p.wCnt → p.armPeriod ≠ 0 →
    ∃ t : State, hostTurn (State.powerOn p u) = .next t ∧
      t.tick = { armed := true, reload := p.armPeriod, cnt := p.armPeriod, tickPending := false } ∧
      t.host.pc = (if p.role = .displaySerial then .service else .poll)

/-- R94, R116, R127: a `WAIT_TICK` that finds the flag set takes two turns, `POLL` and `ACK`, and clears it; and one begun
while armed ends: in every run that is fair in the sense of R306 (a), with the host agent taking its turns and nothing else
but the environment stepping, the host comes to its `ACK`. The turns are log 14; that they recur is a premise, since R306
bounds no host operation. -/
def Obligations.WaitTickConsumesThePendingTick : Prop :=
  (∀ s : State, s.host.pc = .poll → s.tick.tickPending = true →
    ∃ t : State, hostTurns 2 s = .next t ∧ t.tick = { s.tick with tickPending := false } ∧ t.host.pc = .task 0) ∧
  (∀ (r : Run) (n : Nat), r.FairTick → r.HostRecurs → r.ByAgents n →
    (r.states n).params.wCnt ≤ 32 → (r.states n).tick.cnt.toNat < 2 ^ (r.states n).params.wCnt →
    (r.states n).tick.cnt ≠ 0 → (r.states n).tick.armed = true → (r.states n).host.pc = .poll →
      ∃ m, n < m ∧ (r.states m).host.pc = .ack)

/-- R127, R309: a `WAIT_TICK` begun while disarmed with no tick pending never ends: after any number of turns of the host
agent (log 14), after any step of the agent or of the environment, and so at every later place of an endless run in which
only these step, the host is still polling and the TICK unit is as it was. -/
def Obligations.WaitTickWhileDisarmedHangs : Prop :=
  (∀ (s : State) (k : Nat), s.host.pc = .poll → s.tick.armed = false → s.tick.tickPending = false →
    ∃ t : State, hostTurns k s = .next t ∧ t.host = s.host ∧ t.tick = s.tick) ∧
  (∀ s t : State, s.host.pc = .poll → s.tick.armed = false → s.tick.tickPending = false →
    (s.slot = some .hostTurn ∨
      ∃ w i, s.slot = some (.word w) ∧ decode s.params.wCnt w = .ok i ∧ i.isEnvironment = true) →
    step s = .next t → t.host = s.host ∧ t.tick = s.tick) ∧
  (∀ (r : Run) (n m : Nat), r.ByAgents n → (r.states n).host.pc = .poll → (r.states n).tick.armed = false →
    (r.states n).tick.tickPending = false → n ≤ m →
      (r.states m).host = (r.states n).host ∧ (r.states m).tick = (r.states n).tick)

/-- R234: a task's tick adds first, compares second, and at or past the period fires and resets to zero; the sum is taken at
the width of `elapsed` (R12, R232; log 24). -/
def Obligations.TaskAccumulatesAndResets : Prop :=
  ∀ (w : Nat) (inc : Count) (t : Task), w ≤ 32 →
    ∃ sum : Count, sum.toNat = (t.elapsed.toNat + inc.toNat) % 2 ^ w ∧
      taskTick w inc t =
        (if t.periodTicks.toNat ≤ sum.toNat then ({ t with elapsed := 0 }, true) else ({ t with elapsed := sum }, false))

/-- R236: a task starting at `elapsed = 0` has, after `n` ticks, fired `n / K` times, `K = max 1 (ceil (P / T))`, and
holds `(n mod K) * T`; so it fires at tick `n` exactly when `n` is a multiple of `K`. -/
def Obligations.TaskFiringLaw : Prop :=
  ∀ (w : Nat) (inc : Count) (t : Task) (n : Nat), w ≤ 32 → 0 < inc.toNat → inc.toNat < 2 ^ w → t.elapsed = 0 →
    t.periodTicks.toNat + inc.toNat ≤ 2 ^ w →
    (taskTicks w inc n t).2 = n / (max 1 ((t.periodTicks.toNat + inc.toNat - 1) / inc.toNat)) ∧
    (taskTicks w inc n t).1.elapsed.toNat =
      (n % (max 1 ((t.periodTicks.toNat + inc.toNat - 1) / inc.toNat))) * inc.toNat

/-- R233 (3), R234: the host's turn at a registered task that is not yet due only adds the increment to that task and goes
on to the next; the block is untouched. The turn is log 14, the sum modulo `2^W_ELAPSED` log 24. -/
def Obligations.TaskNotDueOnlyAccumulates : Prop :=
  ∀ (s : State) (k : Nat) (t : Task) (sum : Count), s.params.wElapsed ≤ 32 →
    s.host.pc = .task k → s.host.tasks[k]? = some t →
    sum.toNat = (t.elapsed.toNat + s.params.tickInc.toNat) % 2 ^ s.params.wElapsed → sum.toNat < t.periodTicks.toNat →
      hostTurn s = .next { s with host := { s.host with
        tasks := s.host.tasks.set k { t with elapsed := sum }, pc := .task (k + 1) } }

/-- R243: `moveLeft` shifts right but stays at `0x01`, `moveRight` shifts left but stays at `0x80`; so through any moves a
pattern of one bit keeps one bit and is never 0, left moves stay at the floor, and seven right moves reach the top and
stay there. -/
def Obligations.PatternMovesSaturate : Prop :=
  (∀ pat : Byte, moveLeft pat = (if pat = 0x01 then (0x01 : Byte) else pat >>> 1)) ∧
  (∀ pat : Byte, moveRight pat = (if pat = 0x80 then (0x80 : Byte) else pat <<< 1)) ∧
  (∀ (moves : List PatternMove) (pat : Byte), singleBit pat = true →
    singleBit (moves.foldl (fun q m => applyMove m q) pat) = true ∧ moves.foldl (fun q m => applyMove m q) pat ≠ 0x00) ∧
  (∀ n : Nat, (List.replicate n PatternMove.left).foldl (fun q m => applyMove m q) 0x01 = 0x01) ∧
  (∀ (n : Nat) (pat : Byte), singleBit pat = true → 7 ≤ n →
    (List.replicate n PatternMove.right).foldl (fun q m => applyMove m q) pat = 0x80)

/-- R240 to R243, R247, R234: when a Direction task fires, the host computes the next state by the table, an unmatched case
staying in its state, then moves the pattern by the output of the RESULTING state and shows it with `SEND`, after which the
task's `elapsed` is 0. A node fed by the link takes its latest input, two turns; a node fed by its own axes samples a new
one first, three turns. The turns are log 14, the output per state log 15, the sum modulo `2^W_ELAPSED` log 24, the samples
log 8, and that the pattern is shown at every firing log 25. -/
def Obligations.DirectionTaskTicksInTwoPhases : Prop :=
  (∀ (s : State) (k : Nat) (t : Task), s.host.pc = .task k → s.host.tasks[k]? = some t → t.action = .direction →
    s.params.role = .displaySerial → s.params.wElapsed ≤ 32 →
    t.periodTicks.toNat ≤ (t.elapsed.toNat + s.params.tickInc.toNat) % 2 ^ s.params.wElapsed →
      ∃ u v : State, hostTurn s = .next u ∧
        u.host.dirState = dirNext s.params.dirTable s.host.dirState s.host.lastIn ∧
        u.host.pat = applyMove (dirOutput s.params.dirOutputs u.host.dirState) s.host.pat ∧
        hostIssue u.params u.host = some (.send u.host.pat) ∧
        ((∀ e ∈ s.params.dirTable, ¬(e.source = s.host.dirState ∧ e.input = s.host.lastIn)) →
          u.host.dirState = s.host.dirState) ∧
        hostTurn u = .next v ∧
        v.host = { u.host with pc := .task (k + 1), tasks := s.host.tasks.set k { t with elapsed := 0 } } ∧
        v.shout.portLog = s.shout.portLog ++ sendMasks s.params u.host.pat ∧ v.tick = s.tick ∧ v.link = s.link) ∧
  (∀ (s : State) (k : Nat) (t : Task) (x y : Sample) (rest : List Sample),
    s.host.pc = .task k → s.host.tasks[k]? = some t → t.action = .direction →
    s.params.role = .displayAnalog → s.params.wElapsed ≤ 32 → s.oracles.adc.script = x :: y :: rest →
    t.periodTicks.toNat ≤ (t.elapsed.toNat + s.params.tickInc.toNat) % 2 ^ s.params.wElapsed →
      ∃ v : State, hostTurns 3 s = .next v ∧
        v.host.lastIn = classify x y ∧
        v.host.dirState = dirNext s.params.dirTable s.host.dirState (classify x y) ∧
        v.host.pat = applyMove (dirOutput s.params.dirOutputs v.host.dirState) s.host.pat ∧
        v.host.tasks = s.host.tasks.set k { t with elapsed := 0 } ∧ v.host.pc = .task (k + 1) ∧
        v.shout.portLog = s.shout.portLog ++ sendMasks s.params v.host.pat ∧ v.tick = s.tick ∧ v.link = s.link)

/-- R244, R245, R234: a due Stick/Link task, from `start` or from `running`, five turns: the machine is in `running` and the
sending action has run already on the first tick: sample, read the button, encode, try to send, and then `elapsed` is 0.
With a ready transmitter exactly the frame of the sampled direction and the button goes out; with a busy one the frame is
dropped and the link is as it was. The second half is the action alone, four turns. The samples and the level are what the
run's oracles answer (log 8), the turns are log 14, the sum modulo `2^W_ELAPSED` log 24. -/
def Obligations.SenderActionSendsOneFrame : Prop :=
  (∀ (s : State) (k : Nat) (task : Task) (x y : Sample) (level : Bool) (xs : List Sample) (ls : List Bool),
    s.host.pc = .task k → s.host.tasks[k]? = some task → task.action = .stickLink → s.params.wElapsed ≤ 32 →
    task.periodTicks.toNat ≤ (task.elapsed.toNat + s.params.tickInc.toNat) % 2 ^ s.params.wElapsed →
    s.oracles.adc.script = x :: y :: xs → s.oracles.pin.script = level :: ls →
      ∃ (frame : Byte) (t : State), frame = packFrame (classify x y) (level == s.params.btnActive) ∧
        hostTurns 5 s = .next t ∧ t.tick = s.tick ∧ t.shout = s.shout ∧
        t.host = { s.host with
          pc := .task (k + 1), stickState := .running, tasks := s.host.tasks.set k { task with elapsed := 0 } } ∧
        t.link = (if s.link.txReady = true then
            { s.link with txReady := false, txData := frame, txLog := s.link.txLog ++ [frame] }
          else s.link)) ∧
  (∀ (s : State) (k : Nat) (x y : Sample) (level : Bool) (xs : List Sample) (ls : List Bool),
    s.host.pc = .sampleStick k → s.oracles.adc.script = x :: y :: xs → s.oracles.pin.script = level :: ls →
      ∃ (frame : Byte) (t : State), frame = packFrame (classify x y) (level == s.params.btnActive) ∧
        hostTurns 4 s = .next t ∧ t.tick = s.tick ∧ t.shout = s.shout ∧
        t.host = { s.host with pc := .task (k + 1), tasks := s.host.tasks.modify k restart } ∧
        t.link = (if s.link.txReady = true then
            { s.link with txReady := false, txData := frame, txLog := s.link.txLog ++ [frame] }
          else s.link))

/-- R94, R206, R196: `RECEIVE_FRAME` on a display node. With a byte in the slot, three turns: the slot is emptied, whether
or not reading clears it, and the latest input becomes the frame's direction if the byte is a frame and stays if not. With
an empty slot, one turn that changes nothing and goes on to the wait. The turns are log 14. -/
def Obligations.ReceiveFrameTakesTheNewestInput : Prop :=
  (∀ s : State, s.host.pc = .service → s.link.rxFull = true →
    ∃ t : State, hostTurns 3 s = .next t ∧ t.host.pc = .poll ∧ t.link = { s.link with rxFull := false } ∧
      t.host.lastIn = (if frameValid s.link.rxData = true then frameDirection s.link.rxData else s.host.lastIn)) ∧
  (∀ s : State, s.host.pc = .service → s.link.rxFull = false →
    hostTurn s = .next { s with host := { s.host with pc := .poll }, answer := .received none })

/-! ## Two nodes (60_exceptions.md R275) -/

/-- R275: in any interleaving of the two nodes begun before anything has arrived: over an `ideal` channel the bytes that
have arrived at `D` are a prefix of the bytes `S` has sent, and in a whole run, where both nodes' runs have ended, they are
those bytes exactly; over a `lossy` channel they are a subsequence of them. The pair is the model's (log 18). -/
def Obligations.IdealChannelDeliversWhatWasSent : Prop :=
  ∀ (turns : List Turn) (n m : NodePair), n.arrived = [] →
    (pairRun .ideal turns n = some m → m.arrived <+: m.sender.link.txLog) ∧
    (wholePairRun .ideal turns n = some m → m.arrived = m.sender.link.txLog) ∧
    (pairRun .lossy turns n = some m → m.arrived.Sublist m.sender.link.txLog)
end

