-- ==== Sys2Proof/Laws/Decode.lean ====
section
/-! SUPPORT. The fields of the words the encoder writes, and what a decoded word must look like, one lemma per format. -/

namespace Sys2Proof

@[simp] theorem opcodeOf_packWord (op : Byte) (v : BitVec 32) : opcodeOf (packWord op v) = op := by
  apply BitVec.eq_of_getLsbD_eq
  intro k hk
  simp only [opcodeOf, packWord, BitVec.getLsbD_extractLsb', BitVec.getLsbD_append]
  simp [hk]

/-- The class bit of a packed word is bit 7 of its opcode (30_encoding.md R86). -/
theorem classBit_of_opcode {op : Byte} {v : BitVec 32} {b : Bool} (h : op.getLsbD 7 = b) :
    (opcodeOf (packWord op v)).getLsbD 7 = b := by rw [opcodeOf_packWord, h]

@[simp] theorem operandOf_packWord (op : Byte) (v : BitVec 32) : operandOf (packWord op v) = v := by
  apply BitVec.eq_of_getLsbD_eq
  intro k hk
  simp only [operandOf, packWord, BitVec.getLsbD_extractLsb', BitVec.getLsbD_append]
  simp [hk]

/-- A word is its opcode and its operand field (30_encoding.md R86). -/
theorem packWord_opcodeOf_operandOf (w : OpWord) : packWord (opcodeOf w) (operandOf w) = w := by
  apply BitVec.eq_of_getLsbD_eq
  intro k hk
  simp only [packWord, BitVec.getLsbD_append, opcodeOf, operandOf, BitVec.getLsbD_extractLsb']
  split <;> rename_i h
  · simp [h]
  · have h2 : k - 32 < 8 := by omega
    have h3 : 32 + (k - 32) = k := by omega
    simp [h2, h3]

theorem dirOfNibble_dir4 (d : Direction) : dirOfNibble d.dir4 = some d := by cases d <;> rfl

/-- A nibble that encodes a direction is that direction's `DIR4` (R81). -/
theorem dir4_of_dirOfNibble {n : Nibble} {d : Direction} (h : dirOfNibble n = some d) : d.dir4 = n := by
  unfold dirOfNibble at h
  repeat' split at h
  all_goals first
    | (cases h; rename_i hn; exact hn.symm)
    | cases h

@[simp] theorem fieldB_low (b : Byte) : (fieldB b).extractLsb' 0 8 = b := by
  apply BitVec.eq_of_getLsbD_eq
  intro k hk
  simp only [fieldB, BitVec.getLsbD_extractLsb', BitVec.getLsbD_append]
  simp [hk]

@[simp] theorem fieldB_high (b : Byte) : (fieldB b).extractLsb' 8 24 = 0 := by
  apply BitVec.eq_of_getLsbD_eq
  intro k hk
  simp only [fieldB, BitVec.getLsbD_extractLsb', BitVec.getLsbD_append]
  simp

/-- A field whose bits above 7 are 0 is a format B field (R87). -/
theorem fieldB_of_high {v : BitVec 32} (h : v.extractLsb' 8 24 = 0) : fieldB (v.extractLsb' 0 8) = v := by
  apply BitVec.eq_of_getLsbD_eq
  intro k hk
  have hb := congrArg (fun z => BitVec.getLsbD z (k - 8)) h
  simp only [BitVec.getLsbD_extractLsb'] at hb
  simp only [fieldB, BitVec.getLsbD_append, BitVec.getLsbD_extractLsb']
  by_cases h8 : k < 8
  · simp [h8]
  · have h1 : 8 + (k - 8) = k := by omega
    have h2 : k - 8 < 24 := by omega
    simp [h1, h2] at hb
    simp [h8, hb]

@[simp] theorem fieldXY_x (x y : Sample) : (fieldXY x y).extractLsb' 0 10 = x := by
  apply BitVec.eq_of_getLsbD_eq
  intro k hk
  simp only [fieldXY, BitVec.getLsbD_extractLsb', BitVec.getLsbD_append]
  simp [hk]
  omega

@[simp] theorem fieldXY_y (x y : Sample) : (fieldXY x y).extractLsb' 16 10 = y := by
  apply BitVec.eq_of_getLsbD_eq
  intro k hk
  simp only [fieldXY, BitVec.getLsbD_extractLsb', BitVec.getLsbD_append]
  simp [hk]

@[simp] theorem fieldXY_low (x y : Sample) : (fieldXY x y).extractLsb' 10 6 = 0 := by
  apply BitVec.eq_of_getLsbD_eq
  intro k hk
  simp only [fieldXY, BitVec.getLsbD_extractLsb', BitVec.getLsbD_append]
  have h1 : 10 + k < 16 := by omega
  simp [hk, h1]

@[simp] theorem fieldXY_high (x y : Sample) : (fieldXY x y).extractLsb' 26 6 = 0 := by
  apply BitVec.eq_of_getLsbD_eq
  intro k hk
  simp only [fieldXY, BitVec.getLsbD_extractLsb', BitVec.getLsbD_append]
  have h1 : ¬ 26 + k < 16 := by omega
  have h2 : ¬ 26 + k - 16 < 10 := by omega
  simp [h1, h2]

/-- A field whose zero bits are 0 is a format XY field (R87). -/
theorem fieldXY_of_zero {v : BitVec 32} (h : v.extractLsb' 10 6 = 0) (g : v.extractLsb' 26 6 = 0) :
    fieldXY (v.extractLsb' 0 10) (v.extractLsb' 16 10) = v := by
  apply BitVec.eq_of_getLsbD_eq
  intro k hk
  have hb := congrArg (fun z => BitVec.getLsbD z (k - 10)) h
  have gb := congrArg (fun z => BitVec.getLsbD z (k - 26)) g
  simp only [BitVec.getLsbD_extractLsb'] at hb gb
  simp only [fieldXY, BitVec.getLsbD_append, BitVec.getLsbD_extractLsb']
  by_cases h16 : k < 16
  · by_cases h10 : k < 10
    · simp [h16, h10]
    · have h1 : 10 + (k - 10) = k := by omega
      have h2 : k - 10 < 6 := by omega
      simp [h1, h2] at hb
      simp [h16, h10, hb]
  · by_cases h26 : k - 16 < 10
    · have h1 : 16 + (k - 16) = k := by omega
      simp [h16, h26, h1]
    · have h1 : 26 + (k - 26) = k := by omega
      have h2 : k - 26 < 6 := by omega
      simp [h1, h2] at gb
      simp [h16, h26, gb]

@[simp] theorem fieldDF_d (d : Direction) (f : Bool) : (fieldDF d f).extractLsb' 0 4 = d.dir4 := by
  cases d <;> cases f <;> rfl

@[simp] theorem fieldDF_f (d : Direction) (f : Bool) : (fieldDF d f)[4] = f := by
  cases d <;> cases f <;> rfl

@[simp] theorem fieldDF_high (d : Direction) (f : Bool) : (fieldDF d f).extractLsb' 5 27 = 0 := by
  cases d <;> cases f <;> rfl

/-- A field whose zero bits are 0 and whose nibble is a `DIR4` is a format DF field (R87). -/
theorem fieldDF_of_high {v : BitVec 32} {d : Direction} (h : v.extractLsb' 5 27 = 0)
    (g : dirOfNibble (v.extractLsb' 0 4) = some d) : fieldDF d (v.getLsbD 4) = v := by
  apply BitVec.eq_of_getLsbD_eq
  intro k hk
  have hb := congrArg (fun z => BitVec.getLsbD z (k - 5)) h
  simp only [BitVec.getLsbD_extractLsb'] at hb
  simp only [fieldDF, BitVec.getLsbD_append, dir4_of_dirOfNibble g, BitVec.getLsbD_extractLsb']
  by_cases h4 : k < 4
  · have h5 : k < 5 := by omega
    simp [h4, h5]
  · by_cases h5 : k < 5
    · have h6 : k = 4 := by omega
      subst h6
      simp
    · have h1 : 5 + (k - 5) = k := by omega
      have h2 : k - 5 < 27 := by omega
      have h3 : ¬ k < 1 + 4 := by omega
      simp [h1, h2] at hb
      simp [h3, hb]

/-! What each format accepts, from any row (R87). -/

theorem formatN_ok {v : BitVec 32} {i j : Instr} (h : formatN v i = .ok j) : v = 0 ∧ j = i := by
  unfold formatN at h
  split at h
  · cases h; exact ⟨‹_›, rfl⟩
  · cases h

theorem formatP_ok {wCnt : Nat} {v : BitVec 32} {mk : Count → Instr} {j : Instr} (h : formatP wCnt v mk = .ok j) :
    fitsWidth wCnt v = true ∧ j = mk v := by
  unfold formatP at h
  split at h
  · cases h; exact ⟨‹_›, rfl⟩
  · cases h

theorem formatB_ok {v : BitVec 32} {mk : Byte → Instr} {j : Instr} (h : formatB v mk = .ok j) :
    ∃ b, v = fieldB b ∧ j = mk b := by
  unfold formatB at h
  split at h
  · rename_i hv
    cases h
    exact ⟨_, (fieldB_of_high hv).symm, rfl⟩
  · cases h

theorem formatXY_ok {v : BitVec 32} {mk : Sample → Sample → Instr} {j : Instr} (h : formatXY v mk = .ok j) :
    ∃ x y, v = fieldXY x y ∧ j = mk x y := by
  unfold formatXY at h
  split at h
  · rename_i hv
    cases h
    exact ⟨_, _, (fieldXY_of_zero hv.1 hv.2).symm, rfl⟩
  · cases h

theorem formatDF_ok {v : BitVec 32} {mk : Direction → Bool → Instr} {j : Instr} (h : formatDF v mk = .ok j) :
    ∃ d f, v = fieldDF d f ∧ j = mk d f := by
  unfold formatDF at h
  split at h
  · rename_i hv
    split at h
    · rename_i d hd
      cases h
      exact ⟨d, _, (fieldDF_of_high hv hd).symm, rfl⟩
    · cases h
  · cases h

/-! ## The opcode map -/

/-- A row found by its opcode stands in the map under it. -/
theorem mem_of_lookup {l : List (Byte × Row)} {op : Byte} {r : Row} (h : l.lookup op = some r) : (op, r) ∈ l := by
  induction l with
  | nil => cases h
  | cons a rest ih =>
    rw [List.lookup_cons] at h
    split at h
    · rename_i heq
      cases h
      have h1 : op = a.1 := by simpa using heq
      subst h1
      exact List.mem_cons_self
    · exact List.mem_cons_of_mem _ (ih h)

/-- A word that decodes has a row, which reads its operand field (30_encoding.md R92). -/
theorem decode_ok {wCnt : Nat} {w : OpWord} {i : Instr} (h : decode wCnt w = .ok i) :
    ∃ r, (opcodeOf w, r) ∈ opcodeMap ∧ readRow wCnt (operandOf w) r = .ok i := by
  unfold decode at h
  split at h
  · rename_i r hr
    exact ⟨r, mem_of_lookup hr, h⟩
  · cases h

/-- A word made of an opcode of the map and a field its row reads decodes to what the row reads. -/
theorem decode_packWord {wCnt : Nat} {op : Byte} {v : BitVec 32} {r : Row} (h : opcodeMap.lookup op = some r) :
    decode wCnt (packWord op v) = readRow wCnt v r := by
  simp [decode, h]

end Sys2Proof
end

