-- ==== Sys2Proof/Laws/State.lean ====
section
/-! SUPPORT. One lemma per field of State for each update the operations make, all true by rfl, so that no later proof
unfolds a record update. -/

namespace Sys2Proof.Machine

/-! ## advance -/

@[simp] theorem advance_tick (s : State) : (s.advance).tick = s.tick := rfl
@[simp] theorem advance_shout (s : State) : (s.advance).shout = s.shout := rfl
@[simp] theorem advance_chip (s : State) : (s.advance).chip = s.chip := rfl
@[simp] theorem advance_link (s : State) : (s.advance).link = s.link := rfl
@[simp] theorem advance_refused (s : State) : (s.advance).refused = s.refused := rfl
@[simp] theorem advance_answer (s : State) : (s.advance).answer = s.answer := rfl
@[simp] theorem advance_host (s : State) : (s.advance).host = s.host := rfl
@[simp] theorem advance_params (s : State) : (s.advance).params = s.params := rfl
@[simp] theorem advance_oracles (s : State) : (s.advance).oracles = s.oracles := rfl
@[simp] theorem advance_stream (s : State) : (s.advance).stream = s.stream := rfl
@[simp] theorem advance_pos (s : State) : (s.advance).pos = s.pos + 1 := rfl

/-! ## hand -/

@[simp] theorem hand_tick (s : State) (a : Answer) : (s.hand a).tick = s.tick := rfl
@[simp] theorem hand_shout (s : State) (a : Answer) : (s.hand a).shout = s.shout := rfl
@[simp] theorem hand_chip (s : State) (a : Answer) : (s.hand a).chip = s.chip := rfl
@[simp] theorem hand_link (s : State) (a : Answer) : (s.hand a).link = s.link := rfl
@[simp] theorem hand_refused (s : State) (a : Answer) : (s.hand a).refused = s.refused := rfl
@[simp] theorem hand_answer (s : State) (a : Answer) : (s.hand a).answer = a := rfl
@[simp] theorem hand_host (s : State) (a : Answer) : (s.hand a).host = s.host := rfl
@[simp] theorem hand_params (s : State) (a : Answer) : (s.hand a).params = s.params := rfl
@[simp] theorem hand_oracles (s : State) (a : Answer) : (s.hand a).oracles = s.oracles := rfl
@[simp] theorem hand_stream (s : State) (a : Answer) : (s.hand a).stream = s.stream := rfl
@[simp] theorem hand_pos (s : State) (a : Answer) : (s.hand a).pos = s.pos := rfl

/-! ## refuse -/

@[simp] theorem refuse_tick (s : State) (r : Reason) : (s.refuse r).tick = s.tick := rfl
@[simp] theorem refuse_shout (s : State) (r : Reason) : (s.refuse r).shout = s.shout := rfl
@[simp] theorem refuse_chip (s : State) (r : Reason) : (s.refuse r).chip = s.chip := rfl
@[simp] theorem refuse_link (s : State) (r : Reason) : (s.refuse r).link = s.link := rfl
@[simp] theorem refuse_refused (s : State) (r : Reason) : (s.refuse r).refused = true := rfl
@[simp] theorem refuse_answer (s : State) (r : Reason) : (s.refuse r).answer = .refuse r := rfl
@[simp] theorem refuse_host (s : State) (r : Reason) : (s.refuse r).host = s.host := rfl
@[simp] theorem refuse_params (s : State) (r : Reason) : (s.refuse r).params = s.params := rfl
@[simp] theorem refuse_oracles (s : State) (r : Reason) : (s.refuse r).oracles = s.oracles := rfl
@[simp] theorem refuse_stream (s : State) (r : Reason) : (s.refuse r).stream = s.stream := rfl
@[simp] theorem refuse_pos (s : State) (r : Reason) : (s.refuse r).pos = s.pos := rfl

/-! ## portWrite -/

@[simp] theorem portWrite_tick (s : State) (m : Byte) : (portWrite s m).tick = s.tick := rfl
@[simp] theorem portWrite_shout (s : State) (m : Byte) : (portWrite s m).shout = { port := m, portLog := s.shout.portLog ++ [m] } := rfl
@[simp] theorem portWrite_chip (s : State) (m : Byte) : (portWrite s m).chip = chipReact s.params s.shout.port m s.chip := rfl
@[simp] theorem portWrite_link (s : State) (m : Byte) : (portWrite s m).link = s.link := rfl
@[simp] theorem portWrite_refused (s : State) (m : Byte) : (portWrite s m).refused = s.refused := rfl
@[simp] theorem portWrite_answer (s : State) (m : Byte) : (portWrite s m).answer = s.answer := rfl
@[simp] theorem portWrite_host (s : State) (m : Byte) : (portWrite s m).host = s.host := rfl
@[simp] theorem portWrite_params (s : State) (m : Byte) : (portWrite s m).params = s.params := rfl
@[simp] theorem portWrite_oracles (s : State) (m : Byte) : (portWrite s m).oracles = s.oracles := rfl
@[simp] theorem portWrite_stream (s : State) (m : Byte) : (portWrite s m).stream = s.stream := rfl
@[simp] theorem portWrite_pos (s : State) (m : Byte) : (portWrite s m).pos = s.pos := rfl

/-! ## adcRead -/

@[simp] theorem adcRead_tick (ch : Line) (s : State) : ((adcRead ch s).2).tick = s.tick := rfl
@[simp] theorem adcRead_shout (ch : Line) (s : State) : ((adcRead ch s).2).shout = s.shout := rfl
@[simp] theorem adcRead_chip (ch : Line) (s : State) : ((adcRead ch s).2).chip = s.chip := rfl
@[simp] theorem adcRead_link (ch : Line) (s : State) : ((adcRead ch s).2).link = s.link := rfl
@[simp] theorem adcRead_refused (ch : Line) (s : State) : ((adcRead ch s).2).refused = s.refused := rfl
@[simp] theorem adcRead_answer (ch : Line) (s : State) : ((adcRead ch s).2).answer = s.answer := rfl
@[simp] theorem adcRead_host (ch : Line) (s : State) : ((adcRead ch s).2).host = s.host := rfl
@[simp] theorem adcRead_params (ch : Line) (s : State) : ((adcRead ch s).2).params = s.params := rfl
@[simp] theorem adcRead_oracles (ch : Line) (s : State) : ((adcRead ch s).2).oracles = { s.oracles with adc := (drawFrom s.oracles.adc (fun n => Config.adcFree n ch)).2 } := rfl
@[simp] theorem adcRead_stream (ch : Line) (s : State) : ((adcRead ch s).2).stream = s.stream := rfl
@[simp] theorem adcRead_pos (ch : Line) (s : State) : ((adcRead ch s).2).pos = s.pos := rfl

theorem adcRead_value (ch : Line) (s : State) :
    (adcRead ch s).1 = (drawFrom s.oracles.adc (fun n => Config.adcFree n ch)).1 := rfl

/-! ## pinRead -/

@[simp] theorem pinRead_tick (n : Nat) (s : State) : ((pinRead n s).2).tick = s.tick := rfl
@[simp] theorem pinRead_shout (n : Nat) (s : State) : ((pinRead n s).2).shout = s.shout := rfl
@[simp] theorem pinRead_chip (n : Nat) (s : State) : ((pinRead n s).2).chip = s.chip := rfl
@[simp] theorem pinRead_link (n : Nat) (s : State) : ((pinRead n s).2).link = s.link := rfl
@[simp] theorem pinRead_refused (n : Nat) (s : State) : ((pinRead n s).2).refused = s.refused := rfl
@[simp] theorem pinRead_answer (n : Nat) (s : State) : ((pinRead n s).2).answer = s.answer := rfl
@[simp] theorem pinRead_host (n : Nat) (s : State) : ((pinRead n s).2).host = s.host := rfl
@[simp] theorem pinRead_params (n : Nat) (s : State) : ((pinRead n s).2).params = s.params := rfl
@[simp] theorem pinRead_oracles (n : Nat) (s : State) : ((pinRead n s).2).oracles = { s.oracles with pin := (drawFrom s.oracles.pin (fun k => Config.pinFree k n)).2 } := rfl
@[simp] theorem pinRead_stream (n : Nat) (s : State) : ((pinRead n s).2).stream = s.stream := rfl
@[simp] theorem pinRead_pos (n : Nat) (s : State) : ((pinRead n s).2).pos = s.pos := rfl

theorem pinRead_value (n : Nat) (s : State) :
    (pinRead n s).1 = (drawFrom s.oracles.pin (fun k => Config.pinFree k n)).1 := rfl

/-! ## overrunDraw -/

@[simp] theorem overrunDraw_tick (s : State) : ((overrunDraw s).2).tick = s.tick := rfl
@[simp] theorem overrunDraw_shout (s : State) : ((overrunDraw s).2).shout = s.shout := rfl
@[simp] theorem overrunDraw_chip (s : State) : ((overrunDraw s).2).chip = s.chip := rfl
@[simp] theorem overrunDraw_link (s : State) : ((overrunDraw s).2).link = s.link := rfl
@[simp] theorem overrunDraw_refused (s : State) : ((overrunDraw s).2).refused = s.refused := rfl
@[simp] theorem overrunDraw_answer (s : State) : ((overrunDraw s).2).answer = s.answer := rfl
@[simp] theorem overrunDraw_host (s : State) : ((overrunDraw s).2).host = s.host := rfl
@[simp] theorem overrunDraw_params (s : State) : ((overrunDraw s).2).params = s.params := rfl
@[simp] theorem overrunDraw_oracles (s : State) : ((overrunDraw s).2).oracles = { s.oracles with overrun := (drawFrom s.oracles.overrun Config.overrunFree).2 } := rfl
@[simp] theorem overrunDraw_stream (s : State) : ((overrunDraw s).2).stream = s.stream := rfl
@[simp] theorem overrunDraw_pos (s : State) : ((overrunDraw s).2).pos = s.pos := rfl

theorem overrunDraw_value (s : State) :
    (overrunDraw s).1 = (drawFrom s.oracles.overrun Config.overrunFree).1 := rfl

/-! ## takeForTransmit -/

@[simp] theorem takeForTransmit_txReady (b : Byte) (l : LinkUnit) : (takeForTransmit b l).txReady = false := rfl
@[simp] theorem takeForTransmit_txData (b : Byte) (l : LinkUnit) : (takeForTransmit b l).txData = b := rfl
@[simp] theorem takeForTransmit_txLog (b : Byte) (l : LinkUnit) : (takeForTransmit b l).txLog = l.txLog ++ [b] := rfl
@[simp] theorem takeForTransmit_rxFull (b : Byte) (l : LinkUnit) : (takeForTransmit b l).rxFull = l.rxFull := rfl
@[simp] theorem takeForTransmit_rxData (b : Byte) (l : LinkUnit) : (takeForTransmit b l).rxData = l.rxData := rfl
@[simp] theorem takeForTransmit_rxOvr (b : Byte) (l : LinkUnit) : (takeForTransmit b l).rxOvr = l.rxOvr := rfl

/-! ## setTxReady -/

@[simp] theorem setTxReady_txReady (l : LinkUnit) : (setTxReady l).txReady = true := rfl
@[simp] theorem setTxReady_txData (l : LinkUnit) : (setTxReady l).txData = l.txData := rfl
@[simp] theorem setTxReady_txLog (l : LinkUnit) : (setTxReady l).txLog = l.txLog := rfl
@[simp] theorem setTxReady_rxFull (l : LinkUnit) : (setTxReady l).rxFull = l.rxFull := rfl
@[simp] theorem setTxReady_rxData (l : LinkUnit) : (setTxReady l).rxData = l.rxData := rfl
@[simp] theorem setTxReady_rxOvr (l : LinkUnit) : (setTxReady l).rxOvr = l.rxOvr := rfl

/-! ## clearRxFull -/

@[simp] theorem clearRxFull_txReady (l : LinkUnit) : (clearRxFull l).txReady = l.txReady := rfl
@[simp] theorem clearRxFull_txData (l : LinkUnit) : (clearRxFull l).txData = l.txData := rfl
@[simp] theorem clearRxFull_txLog (l : LinkUnit) : (clearRxFull l).txLog = l.txLog := rfl
@[simp] theorem clearRxFull_rxFull (l : LinkUnit) : (clearRxFull l).rxFull = false := rfl
@[simp] theorem clearRxFull_rxData (l : LinkUnit) : (clearRxFull l).rxData = l.rxData := rfl
@[simp] theorem clearRxFull_rxOvr (l : LinkUnit) : (clearRxFull l).rxOvr = l.rxOvr := rfl

/-! ## fillReceive -/

@[simp] theorem fillReceive_txReady (b : Byte) (l : LinkUnit) : (fillReceive b l).txReady = l.txReady := rfl
@[simp] theorem fillReceive_txData (b : Byte) (l : LinkUnit) : (fillReceive b l).txData = l.txData := rfl
@[simp] theorem fillReceive_txLog (b : Byte) (l : LinkUnit) : (fillReceive b l).txLog = l.txLog := rfl
@[simp] theorem fillReceive_rxFull (b : Byte) (l : LinkUnit) : (fillReceive b l).rxFull = true := rfl
@[simp] theorem fillReceive_rxData (b : Byte) (l : LinkUnit) : (fillReceive b l).rxData = b := rfl
@[simp] theorem fillReceive_rxOvr (b : Byte) (l : LinkUnit) : (fillReceive b l).rxOvr = l.rxOvr := rfl

/-! ## overrunReceive -/

@[simp] theorem overrunReceive_txReady (v : Byte) (l : LinkUnit) : (overrunReceive v l).txReady = l.txReady := rfl
@[simp] theorem overrunReceive_txData (v : Byte) (l : LinkUnit) : (overrunReceive v l).txData = l.txData := rfl
@[simp] theorem overrunReceive_txLog (v : Byte) (l : LinkUnit) : (overrunReceive v l).txLog = l.txLog := rfl
@[simp] theorem overrunReceive_rxFull (v : Byte) (l : LinkUnit) : (overrunReceive v l).rxFull = l.rxFull := rfl
@[simp] theorem overrunReceive_rxData (v : Byte) (l : LinkUnit) : (overrunReceive v l).rxData = v := rfl
@[simp] theorem overrunReceive_rxOvr (v : Byte) (l : LinkUnit) : (overrunReceive v l).rxOvr = true := rfl

/-! ## clearTickPending -/

@[simp] theorem clearTickPending_armed (t : TickUnit) : (clearTickPending t).armed = t.armed := rfl
@[simp] theorem clearTickPending_reload (t : TickUnit) : (clearTickPending t).reload = t.reload := rfl
@[simp] theorem clearTickPending_cnt (t : TickUnit) : (clearTickPending t).cnt = t.cnt := rfl
@[simp] theorem clearTickPending_tickPending (t : TickUnit) : (clearTickPending t).tickPending = false := rfl

/-! ## endAction and directionAction -/

@[simp] theorem endAction_pc (k : Nat) (h : HostAgent) : (endAction k h).pc = .task (k + 1) := rfl
@[simp] theorem endAction_tasks (k : Nat) (h : HostAgent) : (endAction k h).tasks = h.tasks.modify k restart := rfl
@[simp] theorem endAction_stickState (k : Nat) (h : HostAgent) : (endAction k h).stickState = h.stickState := rfl
@[simp] theorem endAction_dirState (k : Nat) (h : HostAgent) : (endAction k h).dirState = h.dirState := rfl
@[simp] theorem endAction_pat (k : Nat) (h : HostAgent) : (endAction k h).pat = h.pat := rfl
@[simp] theorem endAction_lastIn (k : Nat) (h : HostAgent) : (endAction k h).lastIn = h.lastIn := rfl
@[simp] theorem directionAction_pc (p : Params) (k : Nat) (h : HostAgent) :
    (directionAction p k h).pc = .display k := rfl
@[simp] theorem directionAction_tasks (p : Params) (k : Nat) (h : HostAgent) :
    (directionAction p k h).tasks = h.tasks := rfl
@[simp] theorem directionAction_stickState (p : Params) (k : Nat) (h : HostAgent) :
    (directionAction p k h).stickState = h.stickState := rfl
@[simp] theorem directionAction_dirState (p : Params) (k : Nat) (h : HostAgent) :
    (directionAction p k h).dirState = dirNext p.dirTable h.dirState h.lastIn := rfl
@[simp] theorem directionAction_pat (p : Params) (k : Nat) (h : HostAgent) :
    (directionAction p k h).pat = applyMove (dirOutput p.dirOutputs (dirNext p.dirTable h.dirState h.lastIn)) h.pat := rfl
@[simp] theorem directionAction_lastIn (p : Params) (k : Nat) (h : HostAgent) :
    (directionAction p k h).lastIn = h.lastIn := rfl

end Sys2Proof.Machine
end

