-- ==== Sys2Proof/Laws/Ops.lean ====
section
/-! SUPPORT. What each shared operation can do, said once. -/

namespace Sys2Proof.Machine

/-! ## The stream -/

/-- The slot placed is the slot read there. -/
theorem placeSlot_getElem? (stream : List Slot) (pos : Nat) (x : Slot) : (placeSlot stream pos x)[pos]? = some x := by
  have hlen : ((stream ++ List.replicate (pos - stream.length) Slot.hostTurn).take pos).length = pos := by
    simp only [List.length_take, List.length_append, List.length_replicate]
    omega
  unfold placeSlot
  rw [List.getElem?_append_right (by omega), hlen, Nat.sub_self]
  rfl

/-- The word placed is the slot the next step reads. -/
theorem slot_withFetchWord (s : State) (nbits w : Nat) :
    (s.withFetchWord nbits w).slot = some (.word (BitVec.ofNat 40 (w % 2 ^ nbits))) :=
  placeSlot_getElem? s.stream s.pos _

/-! ## Oracles -/

theorem drawFrom_script {α : Type} (a : α) (rest : List α) (n : Nat) (free : Nat → α) :
    drawFrom { script := a :: rest, used := n } free = (a, { script := rest, used := n + 1 }) := rfl

theorem drawFrom_free {α : Type} (n : Nat) (free : Nat → α) :
    drawFrom { script := [], used := n } free = (free n, { script := [], used := n + 1 }) := rfl

/-! ## TICK arithmetic -/

/-- `narrow` is the remainder (00_scope.md R12), where the width fits the container. -/
theorem narrow_toNat {wCnt : Nat} (h : wCnt ≤ 32) (v : Count) : (narrow wCnt v).toNat = v.toNat % 2 ^ wCnt := by
  have h1 : 2 ^ wCnt ≤ 2 ^ 32 := Nat.pow_le_pow_right (by omega) h
  have h2 : v.toNat % 2 ^ wCnt < 2 ^ wCnt := Nat.mod_lt _ (Nat.two_pow_pos _)
  simp only [narrow, BitVec.toNat_ofNat]
  exact Nat.mod_eq_of_lt (by omega)

/-- A sum kept to a width (00_scope.md R12). -/
theorem narrow_add_toNat {w : Nat} (h : w ≤ 32) (a b : Count) :
    (narrow w (a + b)).toNat = (a.toNat + b.toNat) % 2 ^ w := by
  rw [narrow_toNat h, BitVec.toNat_add, Nat.mod_mod_of_dvd _ (Nat.pow_dvd_pow 2 h)]

/-- Within the unit's invariant the decrement does not wrap (10_state.md R26). -/
theorem narrow_pred {wCnt : Nat} (h : wCnt ≤ 32) {c : Count} (h0 : c ≠ 0) (hc : c.toNat < 2 ^ wCnt) :
    (narrow wCnt (c - 1)).toNat = c.toNat - 1 := by
  have hpos : 0 < c.toNat := by
    rcases Nat.eq_zero_or_pos c.toNat with h | h
    · exact absurd (BitVec.eq_of_toNat_eq (by simpa using h)) h0
    · exact h
  have hlt := c.isLt
  rw [narrow_toNat h, BitVec.toNat_sub]
  have e : (2 ^ 32 - (1 : Count).toNat + c.toNat) % 2 ^ 32 = c.toNat - 1 := by
    have h1 : (1 : Count).toNat = 1 := rfl
    omega
  rw [e]
  exact Nat.mod_eq_of_lt (by omega)

/-- The two things taking the interrupt can do (40_tick_source.md R118). -/
theorem takeInterrupt_cases (wCnt : Nat) (t : TickUnit) :
    (narrow wCnt (t.cnt - 1) = 0 ∧ takeInterrupt wCnt t = { t with tickPending := true, cnt := t.reload }) ∨
    (narrow wCnt (t.cnt - 1) ≠ 0 ∧ takeInterrupt wCnt t = { t with cnt := narrow wCnt (t.cnt - 1) }) := by
  unfold takeInterrupt
  by_cases h : narrow wCnt (t.cnt - 1) = 0
  · exact .inl ⟨h, if_pos h⟩
  · exact .inr ⟨h, if_neg h⟩

@[simp] theorem takeInterrupt_armed (wCnt : Nat) (t : TickUnit) : (takeInterrupt wCnt t).armed = t.armed := by
  rcases takeInterrupt_cases wCnt t with ⟨_, h⟩ | ⟨_, h⟩ <;> rw [h]

@[simp] theorem takeInterrupt_reload (wCnt : Nat) (t : TickUnit) : (takeInterrupt wCnt t).reload = t.reload := by
  rcases takeInterrupt_cases wCnt t with ⟨_, h⟩ | ⟨_, h⟩ <;> rw [h]

/-- The period operand is legal exactly when it is of the width and not zero (R121). -/
theorem periodProblem_eq_none {wCnt : Nat} {m : Count} :
    periodProblem wCnt m = none ↔ m.toNat < 2 ^ wCnt ∧ m ≠ 0 := by
  unfold periodProblem fitsWidth
  by_cases h : m.toNat < 2 ^ wCnt <;> by_cases h0 : m = 0 <;> simp [h, h0]

/-- Zero is of every width, so its problem is the period (R121, R261). -/
@[simp] theorem periodProblem_zero (wCnt : Nat) : periodProblem wCnt 0#32 = some .periodZero := by
  simp [periodProblem, fitsWidth]

/-! ## Tasks -/

/-- What was added to a task before its action is gone after it (44_host_scheduler_fsm.md R234). -/
theorem restart_accumulate (w : Nat) (inc : Count) (t : Task) : restart (accumulate w inc t) = { t with elapsed := 0 } := rfl

/-- The end of the action of the task just written. -/
theorem set_modify_restart (tasks : List Task) (k : Nat) (t : Task) :
    (tasks.set k t).modify k restart = tasks.set k (restart t) := by
  apply List.ext_getElem?
  intro n
  rw [List.getElem?_modify, List.getElem?_set, List.getElem?_set]
  by_cases h : k = n
  · subst h; by_cases h2 : k < tasks.length <;> simp [h2]
  · simp [h]

/-! ## The output port -/

theorem lineMask_getLsbD (i : Line) (b : Bool) (k : Nat) : (lineMask i b).getLsbD k = (b && decide (k = i.val)) := by
  have hi := i.isLt
  cases b with
  | false => simp [lineMask]
  | true =>
    simp only [lineMask, if_true, BitVec.getLsbD_shiftLeft, BitVec.getLsbD_one, Bool.true_and]
    by_cases h : k = i.val
    · subst h; simp [hi]
    · by_cases h2 : k < i.val
      · simp [h2, h]
      · have h3 : k - i.val ≠ 0 := by omega
        simp [h, h3]

/-- Every bit of a port mask (41_shift_out.md R141, 30_encoding.md R84). -/
theorem portMask_getLsbD (p : Params) (ser srclk rclk clr : Bool) (k : Nat) :
    (portMask p ser srclk rclk clr).getLsbD k =
      ((ser && decide (k = p.posSer.val)) || (srclk && decide (k = p.posSrclk.val)) ||
        (rclk && decide (k = p.posRclk.val)) || ((p.hasClr && clr) && decide (k = p.posClr.val))) := by
  simp [portMask, lineMask_getLsbD]

theorem portMask_idle (p : Params) : portMask p false false false false = 0x00 := by
  simp [portMask, lineMask]

theorem sendMasks_length (p : Params) (pattern : Byte) : (sendMasks p pattern).length = 26 := rfl

/-- Some port writes in a row log their masks, leave the last on the port, move the chip mask by mask, and touch nothing
else. -/
theorem foldl_portWrite (masks : List Byte) (s : State) :
    masks.foldl portWrite s =
      { s with
        shout := { port := masks.getLast?.getD s.shout.port, portLog := s.shout.portLog ++ masks }
        chip := (masks.foldl (fun a m => (m, chipReact s.params a.1 m a.2)) (s.shout.port, s.chip)).2 } := by
  induction masks generalizing s with
  | nil => simp
  | cons m rest ih =>
    rw [List.foldl_cons, ih]
    cases rest with
    | nil => simp [portWrite]
    | cons m' rest' => simp [portWrite, List.getLast?_cons]

end Sys2Proof.Machine
end

