-- ==== Sys2Proof/Laws/Exec.lean ====
section
/-! SUPPORT. What a step can do: one inversion lemma for the operations that branch, one for the host's turn, one for the
step; and the fields no operation touches. -/

namespace Sys2Proof.Machine

/-- `ARM` and `SETPERIOD` either refuse or load (40_tick_source.md R111). -/
theorem execArm_cases (m : Count) (s : State) :
    (∃ r, periodProblem s.params.wCnt m = some r ∧ execArm m s = .next (s.refuse r)) ∨
    (periodProblem s.params.wCnt m = none ∧
      execArm m s =
        .next { s with tick := { s.tick with reload := m, cnt := m, armed := true }, answer := .nothing }) := by
  unfold execArm
  cases h : periodProblem s.params.wCnt m with
  | none => exact .inr ⟨rfl, rfl⟩
  | some r => exact .inl ⟨r, rfl, rfl⟩

theorem execSetPeriod_cases (m : Count) (s : State) :
    (∃ r, periodProblem s.params.wCnt m = some r ∧ execSetPeriod m s = .next (s.refuse r)) ∨
    (periodProblem s.params.wCnt m = none ∧
      execSetPeriod m s = .next { s with tick := { s.tick with reload := m }, answer := .nothing }) := by
  unfold execSetPeriod
  cases h : periodProblem s.params.wCnt m with
  | none => exact .inr ⟨rfl, rfl⟩
  | some r => exact .inl ⟨r, rfl, rfl⟩

/-- A compare event that has a step was enabled and took the interrupt (R118). -/
theorem execCmpEvent_next {s t : State} (h : execCmpEvent s = .next t) :
    s.tick.armed = true ∧ t = { s with tick := takeInterrupt s.params.wCnt s.tick } := by
  unfold execCmpEvent at h
  split at h
  · cases h; exact ⟨‹_›, rfl⟩
  · cases h

/-- `TRYSEND` takes the byte or drops it (43_link_codec.md R199). -/
theorem execTrySend_cases (b : Byte) (s : State) :
    (s.link.txReady = true ∧
      execTrySend b s = .next { s with link := takeForTransmit b s.link, answer := .sent true }) ∨
    (s.link.txReady = false ∧ execTrySend b s = .next (s.hand (.sent false))) := by
  unfold execTrySend
  cases h : s.link.txReady
  · exact .inr ⟨rfl, rfl⟩
  · exact .inl ⟨rfl, rfl⟩

/-- `TRYRECEIVE` finds a byte or none (R203). -/
theorem execTryReceive_cases (s : State) :
    (s.link.rxFull = true ∧
      execTryReceive s = .next { s with
        link := if s.params.rxReadClears then clearRxFull s.link else s.link
        answer := .received (some s.link.rxData) }) ∨
    (s.link.rxFull = false ∧ execTryReceive s = .next (s.hand (.received none))) := by
  unfold execTryReceive
  cases h : s.link.rxFull
  · exact .inr ⟨rfl, rfl⟩
  · exact .inl ⟨rfl, rfl⟩

/-- An arrival is clean or an overrun (R205). -/
theorem execRxArrive_cases (b : Byte) (s : State) :
    (s.link.rxFull = true ∧
      execRxArrive b s = .next { (overrunDraw s).2 with link := overrunReceive (overrunDraw s).1 s.link }) ∨
    (s.link.rxFull = false ∧ execRxArrive b s = .next { s with link := fillReceive b s.link }) := by
  unfold execRxArrive
  cases h : s.link.rxFull
  · exact .inr ⟨rfl, rfl⟩
  · exact .inl ⟨rfl, rfl⟩

/-- A transmitter completion that has a step was enabled (R201). -/
theorem execTxDone_next {s t : State} (h : execTxDone s = .next t) :
    s.link.txReady = false ∧ t = { s with link := setTxReady s.link } := by
  unfold execTxDone at h
  split at h
  · cases h
  · cases h; rename_i hr; exact ⟨by simpa using hr, rfl⟩

/-- What an operation never touches: the host agent, the parameters, the stream and the position, the pin oracle. -/
theorem exec_keeps {i : Instr} {s t : State} (h : exec i s = .next t) :
    t.host = s.host ∧ t.params = s.params ∧ t.stream = s.stream ∧ t.pos = s.pos ∧ t.oracles.pin = s.oracles.pin := by
  cases i with
  | arm m =>
    rcases execArm_cases m s with ⟨r, _, e⟩ | ⟨_, e⟩ <;> (rw [exec, e] at h; cases h; simp)
  | setPeriod m =>
    rcases execSetPeriod_cases m s with ⟨r, _, e⟩ | ⟨_, e⟩ <;> (rw [exec, e] at h; cases h; simp)
  | send b => rw [exec, execSend, foldl_portWrite] at h; cases h; simp
  | trySend b => rcases execTrySend_cases b s with ⟨_, e⟩ | ⟨_, e⟩ <;> (rw [exec, e] at h; cases h; simp)
  | tryReceive => rcases execTryReceive_cases s with ⟨_, e⟩ | ⟨_, e⟩ <;> (rw [exec, e] at h; cases h; simp)
  | rxArrive b => rcases execRxArrive_cases b s with ⟨_, e⟩ | ⟨_, e⟩ <;> (rw [exec, e] at h; cases h; simp)
  | cmpEvent => rw [exec] at h; obtain ⟨_, rfl⟩ := execCmpEvent_next h; simp
  | txDone => rw [exec] at h; obtain ⟨_, rfl⟩ := execTxDone_next h; simp
  | sampleDir => rw [exec, execSampleDir] at h; cases h; simp
  | disarm => rw [exec, execDisarm] at h; cases h; simp
  | poll => rw [exec, execPoll] at h; cases h; simp
  | ack => rw [exec, execAck] at h; cases h; simp
  | classify x y => rw [exec, execClassify] at h; cases h; simp
  | encode d f => rw [exec, execEncode] at h; cases h; simp
  | decode b => rw [exec, execDecode] at h; cases h; simp
  | flush => rw [exec, execFlush] at h; cases h; simp

/-- The two things a turn of the host agent can do: issue an operation and take its answer, or compute. -/
theorem hostTurn_next {s t : State} (h : hostTurn s = .next t) :
    (∃ i u, hostIssue s.params s.host = some i ∧ exec i s = .next u ∧
      t = { u with host := hostAbsorb u.params u.answer u.host }) ∨
    (hostIssue s.params s.host = none ∧ t = hostCompute s) := by
  unfold hostTurn at h
  split at h
  · cases h; exact .inr ⟨‹_›, rfl⟩
  · rename_i i hi
    split at h
    · cases h; rename_i u hu; exact .inl ⟨i, u, hi, hu, rfl⟩
    · cases h
    · cases h

/-- The three things a place of the stream can do. -/
theorem takeSlot_next {x : Slot} {s t : State} (h : takeSlot x s = .next t) :
    (x = .hostTurn ∧ hostTurn s = .next t) ∨
    (∃ w e, x = .word w ∧ decode s.params.wCnt w = .error e ∧ t = s.refuse .illegalWord) ∨
    (∃ w i, x = .word w ∧ decode s.params.wCnt w = .ok i ∧ exec i s = .next t) := by
  unfold takeSlot at h
  split at h
  · exact .inl ⟨rfl, h⟩
  · rename_i w
    split at h
    · rename_i e he; cases h; exact .inr (.inl ⟨w, e, rfl, he, rfl⟩)
    · rename_i i hi; exact .inr (.inr ⟨w, i, rfl, hi, h⟩)

/-- The three things a step can do (10_state.md R41, 30_encoding.md R91). -/
theorem step_next {s t : State} (h : step s = .next t) :
    (s.slot = some .hostTurn ∧ hostTurn s.advance = .next t) ∨
    (∃ w e, s.slot = some (.word w) ∧ decode s.params.wCnt w = .error e ∧ t = s.advance.refuse .illegalWord) ∨
    (∃ w i, s.slot = some (.word w) ∧ decode s.params.wCnt w = .ok i ∧ exec i s.advance = .next t) := by
  unfold step at h
  split at h
  · cases h
  · rename_i x hx
    rcases takeSlot_next h with ⟨rfl, h⟩ | ⟨w, e, rfl, he, rfl⟩ | ⟨w, i, rfl, hi, h⟩
    · exact .inl ⟨hx, h⟩
    · exact .inr (.inl ⟨w, e, hx, he, rfl⟩)
    · exact .inr (.inr ⟨w, i, hx, hi, h⟩)

end Sys2Proof.Machine
end

