-- ==== Sys2Proof/Laws/PerInstr.lean ====
section
/-! SUPPORT. The per-instruction family of LAWS.json: bit 39 of an operation's word tells its class (30_encoding.md R86). -/

namespace Sys2Proof.Laws.ClassBit

/-- Bit 7 of the opcode is 1 for an environment step and 0 for a host operation (R86). -/
def Statement (i : Instr) : Prop := (opcodeOf (encode i)).getLsbD 7 = i.isEnvironment

theorem arm (m : Count) : Statement (.arm m) := classBit_of_opcode rfl
theorem disarm : Statement .disarm := classBit_of_opcode rfl
theorem setPeriod (m : Count) : Statement (.setPeriod m) := classBit_of_opcode rfl
theorem poll : Statement .poll := classBit_of_opcode rfl
theorem ack : Statement .ack := classBit_of_opcode rfl
theorem send (b : Byte) : Statement (.send b) := classBit_of_opcode rfl
theorem classify (x y : Sample) : Statement (.classify x y) := classBit_of_opcode rfl
theorem sampleDir : Statement .sampleDir := classBit_of_opcode rfl
theorem encode (d : Direction) (f : Bool) : Statement (.encode d f) := classBit_of_opcode rfl
theorem decode (b : Byte) : Statement (.decode b) := classBit_of_opcode rfl
theorem trySend (b : Byte) : Statement (.trySend b) := classBit_of_opcode rfl
theorem tryReceive : Statement .tryReceive := classBit_of_opcode rfl
theorem flush : Statement .flush := classBit_of_opcode rfl
theorem cmpEvent : Statement .cmpEvent := classBit_of_opcode rfl
theorem rxArrive (b : Byte) : Statement (.rxArrive b) := classBit_of_opcode rfl
theorem txDone : Statement .txDone := classBit_of_opcode rfl

end Sys2Proof.Laws.ClassBit
end

