-- ==== Sys2Proof/Laws/Runs.lean ====
section
/-! SUPPORT. Endless runs: what a place of one says of its two states. -/

namespace Sys2Proof.Machine

/-- A place that is an operation's word takes that operation's step. -/
theorem Run.takes_exec {r : Run} {n : Nat} {i : Instr} (h : r.takes n i) :
    exec i (r.states n) = .next (r.states (n + 1)) := by
  obtain ⟨w, hs, hd⟩ := h
  have step := r.steps n
  rw [hs, takeSlot] at step
  simpa only [hd] using step

/-- A place that is a host turn takes the host agent's. -/
theorem Run.turn {r : Run} {n : Nat} (h : r.slots n = .hostTurn) : hostTurn (r.states n) = .next (r.states (n + 1)) := by
  have step := r.steps n
  rwa [h] at step

end Sys2Proof.Machine
end

