-- ==== Sys2Proof/Tests/Slice0.lean ====
section
/-! SUPPORT. The model's own tests: the well-formedness smoke tests, words and results written out from the spec
(30_encoding.md R90 to R93, the vectors of 95_test_vectors.md), one step each; then a witness for every obligation with
hypotheses. -/

namespace Sys2Proof.Tests

open Sys2Proof Sys2Proof.Machine

/-! ## Helpers -/

/-- The state after `reset` with this TICK unit. -/
def withTick (armed : Bool) (reload cnt : Count) (pending : Bool) : State :=
  { State.reset with tick := ⟨armed, reload, cnt, pending⟩ }

/-- The state after `reset` with this LINK unit, nothing sent so far. -/
def withLink (txReady : Bool) (txData : Byte) (rxFull : Bool) (rxData : Byte) : State :=
  { State.reset with link := ⟨txReady, txData, [], rxFull, rxData, false⟩ }

/-- The state after `reset` with other parameters. -/
def withParams (p : Params) : State := { State.reset with params := p }

/-- The state after `reset` with the host at a place of its program. -/
def withPc (pc : HostPc) (s : State) : State := { s with host := { s.host with pc := pc } }

/-- A stream of operation words. -/
def withWords (ws : List OpWord) (s : State) : State := { s with stream := ws.map Slot.word, pos := 0 }

/-- Parameters with another counter width. -/
def width (n : Nat) : Params := { Config.default with wCnt := n }

/-- Parameters without a clear line. -/
def noClear : Params := { Config.default with hasClr := false }

/-- One part of the state an operation leaves, none where it stops. -/
def after {α : Type} (f : State → α) : Host.Outcome State Fault Refusal → Option α
  | .next t => some (f t)
  | .fault _ => none
  | .refused _ => none

/-- How a step stops, none where it goes on. -/
def stop : Host.Outcome State Fault Refusal → Option Fault
  | .next _ => none
  | .fault r => some r
  | .refused _ => none

/-- Whether a word is refused as illegal. -/
def illegal (wCnt : Nat) (w : OpWord) : Bool :=
  match decode wCnt w with
  | .ok _ => false
  | .error _ => true

/-! ## Well-formedness: an ill-formed term for each check -/

theorem test_wf_arm : (Instr.arm 15).wf 4 = true ∧ (Instr.arm 16).wf 4 = false := by decide
theorem test_wf_setPeriod : (Instr.setPeriod 1).wf 1 = true ∧ (Instr.setPeriod 2).wf 1 = false := by decide
theorem test_singleBit : singleBit 0x80 = true ∧ singleBit 0x00 = false ∧ singleBit 0x03 = false := by decide

theorem test_default_legal : Config.default.Legal := by
  constructor
  case follows => intro st; cases st <;> decide
  all_goals decide
theorem test_noClear_legal : noClear.Legal := by
  constructor
  case follows => intro st; cases st <;> decide
  all_goals decide
/-- A display node fed by the link, with a task of another machine beside its own, its times in the unit of `ARM`. -/
theorem test_display_legal :
    { Config.default with
      role := .displaySerial, armPeriod := 100, tickInc := 100,
      tasks := [⟨500, .direction⟩, ⟨100, .other⟩] }.Legal := by
  constructor
  case follows => intro st; cases st <;> decide
  all_goals decide
theorem test_width_zero : ¬(width 0).Legal := fun h => absurd h.width (by decide)
theorem test_width_33 : ¬(width 33).Legal := fun h => absurd h.width (by decide)
theorem test_ser_srclk : ¬{ Config.default with posSer := 1 }.Legal := fun h => absurd h.serSrclk (by decide)
theorem test_ser_rclk : ¬{ Config.default with posSer := 2 }.Legal := fun h => absurd h.serRclk (by decide)
theorem test_ser_clr : ¬{ Config.default with posSer := 3 }.Legal := fun h => absurd h.serClr (by decide)
theorem test_srclk_rclk : ¬{ Config.default with posSrclk := 2 }.Legal := fun h => absurd h.srclkRclk (by decide)
theorem test_srclk_clr : ¬{ Config.default with posSrclk := 3 }.Legal := fun h => absurd h.srclkClr (by decide)
theorem test_rclk_clr : ¬{ Config.default with posRclk := 3 }.Legal := fun h => absurd h.rclkClr (by decide)
theorem test_channels : ¬{ Config.default with chY := 0 }.Legal := fun h => absurd h.channels (by decide)
theorem test_boot_zero : ¬{ Config.default with armPeriod := 0 }.Legal := fun h => absurd h.bootPos (by decide)
theorem test_boot_wide : ¬{ Config.default with wCnt := 4, armPeriod := 16 }.Legal := fun h => absurd h.bootFits (by decide)
theorem test_unit : ¬{ Config.default with armPeriod := 100, tickInc := 50 }.Legal := fun h => absurd h.unit (by decide)
theorem test_two_owners : ¬{ Config.default with tasks := [⟨1, .stickLink⟩, ⟨5, .stickLink⟩] }.Legal :=
  fun h => absurd h.owned (by decide)
theorem test_no_owner : ¬{ Config.default with tasks := [] }.Legal := fun h => absurd h.owned (by decide)
theorem test_other_machine : ¬{ Config.default with tasks := [⟨1, .stickLink⟩, ⟨5, .direction⟩] }.Legal :=
  fun h => absurd h.ownOnly (by decide)
theorem test_outputs :
    ¬{ Config.default with dirOutputs := { start := .keep, movingRight := .left, movingLeft := .right, holding := .keep } }.Legal :=
  fun h => absurd h.outputs (by decide)
/-- With no row, `Left` stays in moving-right, whose output is the move of `Right`. -/
theorem test_follows : ¬{ Config.default with dirTable := [] }.Legal := fun h => absurd (h.follows .movingRight).1 (by decide)
theorem test_elapsed_zero : ¬{ Config.default with wElapsed := 0 }.Legal := fun h => absurd h.elapsed (by decide)
theorem test_elapsed_33 : ¬{ Config.default with wElapsed := 33 }.Legal := fun h => absurd h.elapsed (by decide)
theorem test_increment : ¬{ Config.default with wElapsed := 8, tickInc := 256 }.Legal :=
  fun h => absurd h.increment (by decide)
theorem test_periods : ¬{ Config.default with wElapsed := 8, tasks := [⟨256, .direction⟩] }.Legal :=
  fun h => absurd h.periods (by decide)
theorem test_edges : ¬{ Config.default with dirTable := [⟨.start, .left, .holding⟩] }.Legal :=
  fun h => absurd h.edges (by decide)
theorem test_pattern : ¬{ Config.default with startPattern := 0x00 }.Legal := fun h => absurd h.pattern (by decide)

/-! ## Decoding: words the spec writes out (R90, R93, 95_test_vectors.md parts 2 and 3) -/

theorem test_word_arm : decode 32 0x0100000003 = .ok (.arm 3) := by rfl
theorem test_word_disarm : decode 32 0x0200000000 = .ok .disarm := by rfl
theorem test_word_setPeriod : decode 32 0x0300000002 = .ok (.setPeriod 2) := by rfl
theorem test_word_poll : decode 32 0x0400000000 = .ok .poll := by rfl
theorem test_word_ack : decode 32 0x0500000000 = .ok .ack := by rfl
theorem test_word_send : decode 32 0x10000000A5 = .ok (.send 0xA5) := by rfl
theorem test_word_classify : decode 32 0x2001F4001E = .ok (.classify 30 500) := by rfl
theorem test_word_sampleDir : decode 32 0x2100000000 = .ok .sampleDir := by rfl
theorem test_word_encode_neutral : decode 32 0x3000000010 = .ok (.encode .neutral true) := by rfl
theorem test_word_encode_left : decode 32 0x3000000001 = .ok (.encode .left false) := by rfl
theorem test_word_encode_right : decode 32 0x3000000012 = .ok (.encode .right true) := by rfl
theorem test_word_encode_down : decode 32 0x3000000004 = .ok (.encode .down false) := by rfl
theorem test_word_encode_up : decode 32 0x3000000018 = .ok (.encode .up true) := by rfl
theorem test_word_decode : decode 32 0x31000000E0 = .ok (.decode 0xE0) := by rfl
theorem test_word_trySend : decode 32 0x3200000018 = .ok (.trySend 0x18) := by rfl
theorem test_word_tryReceive : decode 32 0x3300000000 = .ok .tryReceive := by rfl
theorem test_word_flush : decode 32 0x3400000000 = .ok .flush := by rfl
theorem test_word_cmpEvent : decode 32 0x8000000000 = .ok .cmpEvent := by rfl
theorem test_word_rxArrive : decode 32 0x9000000012 = .ok (.rxArrive 0x12) := by rfl
theorem test_word_txDone : decode 32 0x9100000000 = .ok .txDone := by rfl

/-- IW1 to IW10 and IW14, then IW11 at its width. -/
theorem test_illegal_words :
    ([0x0000000000, 0x0600000000, 0x1100000000, 0xFF00000000, 0x0400000001, 0x1000000100, 0x2000000400, 0x2004000000,
      0x3000000003, 0x3000000020, 0x8000000001] : List OpWord).all (illegal 32) = true ∧
    illegal 4 0x0100000010 = true := by decide

/-- The bits of R87 that must be 0 in the formats the vectors above do not touch. -/
theorem test_illegal_high_bits :
    ([0x2000008000, 0x2080000000, 0x3180000000, 0x3200000100, 0x9000000100, 0x9100000001, 0x3080000000] : List OpWord).all
      (illegal 32) = true := by decide

/-- IW12, IW13: legal words whose operation is refused. -/
theorem test_zero_period_words :
    decode 32 0x0100000000 = .ok (.arm 0) ∧ decode 32 0x0300000000 = .ok (.setPeriod 0) := by constructor <;> rfl

/-- No two rows of the opcode table select one word: they differ in a bit both masks keep (R92). -/
theorem test_rows_disjoint :
    opcodeRows.Pairwise (fun a b => a.1 &&& (a.2 &&& b.2) ≠ b.1 &&& (a.2 &&& b.2)) := by decide

theorem test_table_word : decodeTableWord 40 0x0100000003 = some (.arm 3) ∧ decodeTableWord 40 0x0600000000 = none := by
  constructor <;> rfl

/-- The six examples of R93. -/
theorem test_asm :
    Instr.asm (.arm 3) = "ARM 3" ∧ Instr.asm (.send 0x01) = "SEND 0x01" ∧
    Instr.asm (.classify 512 1023) = "CLASSIFY 512, 1023" ∧ Instr.asm (.encode .up true) = "ENCODE Up, 1" ∧
    Instr.asm .cmpEvent = "CMP_EVENT" ∧ Instr.asm (.rxArrive 0x02) = "RX_ARRIVE 0x02" := by decide

/-- The packed results of R89 as CD1, LS5 and LS6 write them. -/
theorem test_packed :
    Answer.packed (.decoded .up true true) = some 0x38 ∧ Answer.packed (.received none) = some 0x000 ∧
    Answer.packed (.received (some 0x02)) = some 0x102 ∧ Answer.packed (.direction .up) = some 0b1000 := by decide

/-! ## Unit TICK (2.1) -/

/-- TK11: re-arming keeps the stale tick. -/
theorem test_arm : after (·.tick) (exec (.arm 4) (withTick true 3 2 true)) = some ⟨true, 4, 4, true⟩ := by decide
/-- TK16. -/
theorem test_arm_zero :
    after (fun t => (t.tick, t.refused, t.answer)) (exec (.arm 0) (withTick true 3 2 false)) =
      some (⟨true, 3, 2, false⟩, true, .refuse .periodZero) := by decide
/-- TK10. -/
theorem test_disarm : after (·.tick) (exec .disarm (withTick true 3 2 true)) = some ⟨false, 3, 2, true⟩ := by decide
/-- TK6, its first operation. -/
theorem test_setPeriod : after (·.tick) (exec (.setPeriod 3) (withTick true 5 2 false)) = some ⟨true, 3, 2, false⟩ := by decide
/-- TK17. -/
theorem test_setPeriod_zero :
    after (fun t => (t.tick, t.refused)) (exec (.setPeriod 0) (withTick true 3 2 false)) =
      some (⟨true, 3, 2, false⟩, true) := by decide
/-- TK18. -/
theorem test_poll : after (·.answer) (exec .poll State.reset) = some (.poll false) := by decide
/-- TK13: nothing to acknowledge. -/
theorem test_ack : after (·.tick) (exec .ack (withTick false 7 9 false)) = some ⟨false, 7, 9, false⟩ := by decide
/-- TK4, its event: the largest period. -/
theorem test_cmpEvent_counts :
    after (·.tick) (exec .cmpEvent (withTick true 4294967295 4294967295 false)) =
      some ⟨true, 4294967295, 4294967294, false⟩ := by decide
/-- P1, step 13: the reload takes the new period. -/
theorem test_cmpEvent_reloads : after (·.tick) (exec .cmpEvent (withTick true 2 1 false)) = some ⟨true, 2, 2, true⟩ := by decide
/-- R118: no step while disarmed. -/
theorem test_cmpEvent_disarmed : stop (exec .cmpEvent State.reset) = some .cmpEventNotEnabled := by decide

/-! ## Unit SHOUT (2.2) -/

/-- SH4 and SH13: the masks of `SEND 0x80`, and the chip after `SEND 0xA5` from unknown contents. -/
theorem test_send :
    after (·.shout) (exec (.send 0x80) State.reset) = some ⟨0x00,
      [0x08, 0x08, 0x0A, 0x08, 0x08, 0x0A, 0x08, 0x08, 0x0A, 0x08, 0x08, 0x0A, 0x08, 0x08, 0x0A, 0x08, 0x08, 0x0A,
       0x08, 0x08, 0x0A, 0x08, 0x09, 0x0B, 0x0F, 0x00]⟩ ∧
    after (·.chip) (exec (.send 0xA5) { State.reset with chip := ⟨0xAA, 0x55⟩ }) = some ⟨0x00, 0xA5⟩ := by decide
/-- SH10: without a clear line. -/
theorem test_send_no_clear :
    after (fun t => (t.shout.portLog, t.chip)) (exec (.send 0x01) (withParams noClear)) = some (
      [0x00, 0x01, 0x03, 0x00, 0x00, 0x02, 0x00, 0x00, 0x02, 0x00, 0x00, 0x02, 0x00, 0x00, 0x02, 0x00, 0x00, 0x02,
       0x00, 0x00, 0x02, 0x00, 0x00, 0x02, 0x06, 0x00], ⟨0x80, 0x80⟩) := by decide

/-! ## Unit DIRDEC (2.3) -/

/-- The pairs at the comparators' edges: CL3 to CL8, CL10, CL11, CL17, CL18, CL21, CL22, CL24, CL25. -/
theorem test_classify :
    [(512, 1001), (512, 1000), (101, 1001), (100, 1001), (899, 1001), (900, 1001), (512, 49), (512, 50), (1001, 512),
      (1000, 512), (1001, 899), (1001, 900), (49, 512), (50, 512)].map (fun q => classify q.1 q.2) =
    [.up, .neutral, .up, .neutral, .up, .neutral, .down, .neutral, .right, .neutral, .right, .neutral, .left, .neutral] := by
  decide
/-- CL31, as an operation. -/
theorem test_classify_both : after (·.answer) (exec (.classify 1023 1023) State.reset) = some (.direction .neutral) := by decide
/-- CL41: the x axis is drawn first. -/
theorem test_sampleDir :
    after (fun t => (t.answer, t.oracles.adc.script))
      (exec .sampleDir { State.reset with oracles := { State.reset.oracles with adc := ⟨[30, 500, 512, 1023], 0⟩ } }) =
    some (.direction .left, [512, 1023]) := by decide

/-! ## Unit LINK (2.4, 2.5) -/

/-- CD1, the ten frames. -/
theorem test_encode :
    [(Direction.neutral, false), (.neutral, true), (.left, false), (.left, true), (.right, false), (.right, true),
      (.down, false), (.down, true), (.up, false), (.up, true)].map (fun q => packFrame q.1 q.2) =
    [0x00, 0x10, 0x01, 0x11, 0x02, 0x12, 0x04, 0x14, 0x08, 0x18] := by decide
/-- P3, step 2. -/
theorem test_encode_step : after (·.answer) (exec (.encode .up true) State.reset) = some (.frame 0x18) := by decide
/-- CD2 and a row of CD1, packed as the vectors write them. -/
theorem test_decode :
    [0x03, 0x05, 0x06, 0x09, 0x0C, 0x0F, 0x13, 0x1F, 0x20, 0x21, 0x30, 0x40, 0x80, 0x88, 0xE0, 0xFF, 0x18].map
      (fun b => Answer.packed (.decoded (frameDirection b) (frameFlag b) (frameValid b))) =
    [0x00, 0x00, 0x00, 0x00, 0x00, 0x00, 0x10, 0x10, 0x00, 0x01, 0x10, 0x00, 0x00, 0x08, 0x00, 0x10, 0x38].map some := by
  decide
/-- P4, step 5. -/
theorem test_decode_step : after (·.answer) (exec (.decode 0x02) State.reset) = some (.decoded .right false true) := by decide
/-- LS1. -/
theorem test_trySend :
    after (fun t => (t.link, t.answer)) (exec (.trySend 0x18) (withLink true 0 false 0)) =
      some (⟨false, 0x18, [0x18], false, 0, false⟩, .sent true) := by decide
/-- LS2: dropped. -/
theorem test_trySend_busy :
    after (fun t => (t.link, t.answer)) (exec (.trySend 0x08) (withLink false 0x18 false 0)) =
      some (⟨false, 0x18, [], false, 0, false⟩, .sent false) := by decide
/-- LS6: reading leaves the slot full. -/
theorem test_tryReceive :
    after (fun t => (t.link.rxFull, t.answer)) (exec .tryReceive (withLink true 0 true 0x02)) =
      some (true, .received (some 0x02)) := by decide
/-- LS11: reading clears where the parameter says so. -/
theorem test_tryReceive_clears :
    after (fun t => (t.link.rxFull, t.answer))
      (exec .tryReceive { withLink true 0 true 0x02 with params := { Config.default with rxReadClears := true } }) =
      some (false, .received (some 0x02)) := by decide
/-- LS7. -/
theorem test_flush : after (·.link) (exec .flush (withLink true 0 true 0x02)) = some ⟨true, 0, [], false, 0x02, false⟩ := by decide
/-- LS12: a received 0x00 is a byte. -/
theorem test_rxArrive :
    after (fun t => (t.link.rxFull, t.link.rxData, t.link.rxOvr)) (exec (.rxArrive 0x00) (withLink true 0 false 0x55)) =
      some (true, 0x00, false) := by decide
/-- LS8: an overrun; the byte is any byte, here the one the script names. -/
theorem test_rxArrive_overrun :
    after (fun t => (t.link.rxFull, t.link.rxData, t.link.rxOvr))
      (exec (.rxArrive 0x08) { withLink true 0 true 0x02 with oracles := { State.reset.oracles with overrun := ⟨[0x5A], 0⟩ } }) =
      some (true, 0x5A, true) := by decide
/-- LS3, its first step. -/
theorem test_txDone : after (·.link) (exec .txDone (withLink false 0x18 false 0)) = some ⟨true, 0x18, [], false, 0, false⟩ := by decide
/-- LS13. -/
theorem test_txDone_ready : stop (exec .txDone State.reset) = some .txDoneNotEnabled := by decide

/-! ## The step -/

/-- The first instruction after reset is the one placed. -/
theorem test_step_first :
    after (fun t => (t.tick, t.pos)) (step (State.reset.withFetchWord 40 0x0100000003)) = some (⟨true, 3, 3, false⟩, 1) := by
  decide
/-- IW1: refused, nothing else changed. -/
theorem test_step_illegal :
    after id (step (State.reset.withFetchWord 40 0)) =
      some { State.reset.withFetchWord 40 0 with refused := true, answer := .refuse .illegalWord, pos := 1 } := by decide
/-- R316: nothing placed, the run is over. -/
theorem test_step_reset : stop (step State.reset) = some .streamExhausted := by decide

/-! ## The host agent (2.7) -/

/-- HS3, HS7 up to its first firing, HS10, HS9: `elapsed` at the end and how often the task fired. -/
theorem test_task_ticks :
    (taskTicks 32 1 5 ⟨5, 0, .stickLink⟩ = (⟨5, 0, .stickLink⟩, 1)) ∧
    (taskTicks 32 100 2 ⟨250, 0, .stickLink⟩ = (⟨250, 200, .stickLink⟩, 0)) ∧
    (taskTicks 32 100 3 ⟨250, 0, .stickLink⟩ = (⟨250, 0, .stickLink⟩, 1)) ∧
    (taskTicks 32 100 4 ⟨101, 0, .stickLink⟩ = (⟨101, 0, .stickLink⟩, 2)) ∧
    (taskTicks 32 100 3 ⟨0, 0, .stickLink⟩ = (⟨0, 0, .stickLink⟩, 3)) := by
  refine ⟨?_, ?_, ?_, ?_, ?_⟩ <;> rfl

/-- R12 at `W_ELAPSED = 8`: 200 + 100 is 44 modulo 256. -/
theorem test_elapsed_wraps : accumulate 8 100 ⟨255, 200, .direction⟩ = ⟨255, 44, .direction⟩ := by decide

/-- HS1 at its corners: the floor, a right move, the ceiling, a left move. -/
theorem test_moves : moveLeft 0x01 = 0x01 ∧ moveRight 0x01 = 0x02 ∧ moveRight 0x80 = 0x80 ∧ moveLeft 0x80 = 0x40 := by decide

/-- Log 26: a task that advances neither machine only starts its count again. -/
theorem test_other_task :
    (startAction Config.default 0 .other { State.reset.host with tasks := [⟨5, 5, .other⟩] }).tasks = [⟨5, 0, .other⟩] := by
  decide

/-- R244: the first tick takes the Stick/Link FSM to running and sends already, by the output of the resulting state. -/
theorem test_stick_first_tick :
    (startAction Config.default 0 .stickLink State.reset.host).pc = .sampleStick 0 ∧
    (startAction Config.default 0 .stickLink State.reset.host).stickState = .running := by decide

/-- R246: the button pin at its active level is the flag. -/
theorem test_button :
    (hostCompute { withPc (.readPin 0 .up) State.reset with
      oracles := { State.reset.oracles with pin := ⟨[true], 0⟩ } }).host.pc = .pack 0 .up true := by decide

/-! ## Witnesses: for each obligation with hypotheses, a state and operands that meet them all -/

/-- An armed node with a busy transmitter and a full slot that meets the invariant. -/
def busyNode : State :=
  { State.reset with
    tick := ⟨true, 3, 1, true⟩
    link := { txReady := false, txData := 0x18, txLog := [0x18], rxFull := true, rxData := 0x02, rxOvr := false } }

theorem busyNode_inv : Invariant busyNode := by
  constructor
  case legal => exact test_default_legal
  all_goals decide

theorem witness_EncodeThenDecodeIsIdentity :
    (1 ≤ 1 ∧ 1 ≤ 32 ∧ (Instr.arm 1).wf 1 = true) ∧ (1 ≤ 32 ∧ 32 ≤ 32 ∧ (Instr.arm 0xFFFFFFFF).wf 32 = true) := by decide

theorem witness_DecodedWordIsItsEncoding : decode 4 0x010000000F = .ok (.arm 15) := by rfl

theorem witness_LegalWordsAreTheTableRows :
    (∃ i, decode 32 0x3000000008 = .ok i) ∧ (0x3000000008 : OpWord).extractLsb' 32 8 = 0x30 ∧
    ¬(∃ i, decode 32 0x3000000003 = .ok i) ∧ (∃ r ∈ opcodeRows, (0x3000000003 : OpWord) &&& r.2 = r.1) :=
  ⟨⟨_, rfl⟩, by decide, fun ⟨_, h⟩ => (nomatch h), by decide⟩

theorem witness_StepRunsDecodedInstruction :
    (withWords [0x0100000003] State.reset).stream[(withWords [0x0100000003] State.reset).pos]? = some (.word 0x0100000003) ∧
    decode (withWords [0x0100000003] State.reset).params.wCnt 0x0100000003 = .ok (.arm 3) := ⟨rfl, rfl⟩

theorem witness_IllegalWordIsRefused :
    (withWords [0x0600000000] State.reset).stream[(withWords [0x0600000000] State.reset).pos]? = some (.word 0x0600000000) ∧
    decode (withWords [0x0600000000] State.reset).params.wCnt 0x0600000000 = .error .unknownOpcode := ⟨rfl, rfl⟩

theorem witness_RunEndsExactlyWithTheStream :
    State.reset.stream.length ≤ State.reset.pos ∧
    ¬((withWords [0x0400000000] State.reset).stream.length ≤ (withWords [0x0400000000] State.reset).pos) := by decide

theorem witness_StreamAndParametersNeverChange : ∃ t, step (withWords [0x8000000000] busyNode) = .next t := ⟨_, rfl⟩

theorem witness_RefusedAndOverrunAreSticky :
    ∃ s t : State, step s = .next t ∧ s.refused = true ∧ s.link.rxOvr = true :=
  ⟨withWords [0x3400000000] { busyNode with refused := true, link := { busyNode.link with rxOvr := true } }, _, rfl, rfl, rfl⟩

theorem witness_PowerOnMeetsTheInvariant :
    Config.default.Legal ∧ fitsWidth Config.default.wCnt 0xFFFFFFFF = true ∧ fitsWidth Config.default.wCnt 0 = true :=
  ⟨test_default_legal, by decide, by decide⟩

theorem witness_StepKeepsTheInvariant :
    Invariant (withWords [0x8000000000] busyNode) ∧ (∃ t, step (withWords [0x8000000000] busyNode) = .next t) ∧
    Invariant { busyNode with stream := [.hostTurn] } ∧ ∃ t, step { busyNode with stream := [.hostTurn] } = .next t := by
  refine ⟨?_, ⟨_, rfl⟩, ?_, ⟨_, rfl⟩⟩
  all_goals
    constructor
    case legal => exact test_default_legal
    all_goals decide

/-- The largest and the least period, at the widest and the narrowest counter. -/
theorem witness_ArmLoadsAndStarts :
    ((0xFFFFFFFF : Count).toNat < 2 ^ State.reset.params.wCnt ∧ (0xFFFFFFFF : Count) ≠ 0) ∧
    ((1 : Count).toNat < 2 ^ (withParams (width 1)).params.wCnt ∧ (1 : Count) ≠ 0) := by decide

theorem witness_SetPeriodWritesReloadOnly :
    ((0xFFFFFFFF : Count).toNat < 2 ^ State.reset.params.wCnt ∧ (0xFFFFFFFF : Count) ≠ 0) ∧
    ((1 : Count).toNat < 2 ^ (withParams (width 1)).params.wCnt ∧ (1 : Count) ≠ 0) := by decide

/-- Armed with the count at one, armed with more, and disarmed. -/
theorem witness_CompareEventCountsDown :
    (busyNode.params.wCnt ≤ 32 ∧ busyNode.tick.armed = true ∧ busyNode.tick.cnt = 1) ∧
    ((withTick true 3 2 false).params.wCnt ≤ 32 ∧ (withTick true 3 2 false).tick.armed = true) ∧
    (State.reset.params.wCnt ≤ 32 ∧ State.reset.tick.armed = false) := by decide

theorem witness_CountersStayPositiveOnceArmed :
    (∃ t, exec (.arm 1) State.reset = .next t ∧ t.answer = .nothing) ∧
    (busyNode.tick.cnt ≠ 0 ∧ busyNode.tick.reload ≠ 0 ∧ ∃ t, exec .cmpEvent busyNode = .next t) :=
  ⟨⟨_, rfl, rfl⟩, by decide, by decide, _, rfl⟩

/-- `k` at zero and at the period itself. -/
theorem witness_FirstTickAfterExactlyM :
    State.reset.params.wCnt ≤ 32 ∧ (3 : Count).toNat < 2 ^ State.reset.params.wCnt ∧ (3 : Count) ≠ 0 ∧
    State.reset.tick.tickPending = false ∧ 0 ≤ (3 : Count).toNat ∧ 3 ≤ (3 : Count).toNat := by decide

theorem witness_PeriodLawAfterArm :
    (width 1).wCnt ≤ 32 ∧ (1 : Count).toNat < 2 ^ (withParams (width 1)).params.wCnt ∧ (1 : Count) ≠ 0 := by decide

/-- TK6, with `k` at zero and at the count in progress. -/
theorem witness_NewPeriodStartsAtTheReload :
    let s := withTick true 5 2 false
    s.params.wCnt ≤ 32 ∧ (3 : Count).toNat < 2 ^ s.params.wCnt ∧ (3 : Count) ≠ 0 ∧ s.tick.armed = true ∧ s.tick.cnt ≠ 0 ∧
    s.tick.cnt.toNat < 2 ^ s.params.wCnt ∧ s.tick.tickPending = false ∧ 0 ≤ s.tick.cnt.toNat ∧ 2 ≤ s.tick.cnt.toNat := by
  decide

/-- TK7 and TK8. -/
theorem witness_TicksAreNotQueued :
    (withTick true 1 1 false).tick.armed = true ∧
    (let s := withTick true 3 1 true
     1 ≤ s.params.wCnt ∧ s.params.wCnt ≤ 32 ∧ s.tick.armed = true ∧ s.tick.cnt = 1) := by decide

theorem witness_PortMaskCarriesTheLines :
    Config.default.Legal ∧ noClear.Legal ∧ (7 : Fin 8) ≠ noClear.posSer ∧ (7 : Fin 8) ≠ noClear.posSrclk ∧
    (7 : Fin 8) ≠ noClear.posRclk ∧ (7 : Fin 8) ≠ noClear.posClr :=
  ⟨test_default_legal, test_noClear_legal, by decide⟩

/-- A rising shift clock, a rising latch clock, neither, a low clear line, and no clear line. -/
theorem witness_ChipReactsToPortWrites :
    (Config.default.hasClr = true ∧ (0x00 : Byte).getLsbD Config.default.posClr = false) ∧
    ((0x0A : Byte).getLsbD Config.default.posClr = true ∧ State.reset.shout.port.getLsbD Config.default.posSrclk = false ∧
      (0x0A : Byte).getLsbD Config.default.posSrclk = true) ∧
    (State.reset.shout.port.getLsbD Config.default.posRclk = false ∧ (0x0E : Byte).getLsbD Config.default.posRclk = true) ∧
    ¬((0x00 : Byte).getLsbD Config.default.posRclk = true) ∧ ¬((0x00 : Byte).getLsbD Config.default.posSrclk = true) ∧
    (withParams noClear).params.hasClr = false := by decide

theorem witness_SendShowsThePatternReversed :
    (State.reset.params.Legal ∧ State.reset.params.hasClr = true) ∧
    ((withParams noClear).params.Legal ∧ (withParams noClear).params.hasClr = false) :=
  ⟨⟨test_default_legal, rfl⟩, test_noClear_legal, rfl⟩

theorem witness_SendEdgeLaw :
    State.reset.params.Legal ∧ State.reset.shout.port = 0x00 ∧ State.reset.params.hasClr = true ∧
    (∃ t, exec (.send 0xA5) State.reset = .next t) ∧
    (withParams noClear).params.Legal ∧ (withParams noClear).shout.port = 0x00 ∧
    ∃ t, exec (.send 0xA5) (withParams noClear) = .next t :=
  ⟨test_default_legal, rfl, rfl, ⟨_, rfl⟩, test_noClear_legal, rfl, _, rfl⟩

/-- Each of the three steps, before the first write, inside the writes, and after the last. -/
theorem witness_CompareEventMayFallInsideSend :
    (∃ t, exec .cmpEvent (((sendMasks busyNode.params 0xA5).take 4).foldl portWrite busyNode) = .next t) ∧
    (sendMasks busyNode.params 0xA5).take 4 ++ (sendMasks busyNode.params 0xA5).drop 4 = sendMasks busyNode.params 0xA5 ∧
    (∃ t, exec .txDone (([] : List Byte).foldl portWrite busyNode) = .next t) ∧
    (∃ t, exec (.rxArrive 0x02) ((sendMasks busyNode.params 0xA5).foldl portWrite busyNode) = .next t) ∧
    Instr.cmpEvent.isEnvironment = true ∧ Instr.txDone.isEnvironment = true ∧ (Instr.rxArrive 0x02).isEnvironment = true :=
  ⟨⟨_, rfl⟩, by decide, ⟨_, rfl⟩, ⟨_, rfl⟩, rfl, rfl, rfl⟩

/-- Two answers in the script, one, none. -/
theorem witness_SampleDirClassifiesTwoDraws :
    (∃ s : State, s.oracles.adc.script = [30, 500]) ∧ (∃ s : State, s.oracles.adc.script = [30]) ∧
    State.reset.oracles.adc.script = [] :=
  ⟨⟨{ State.reset with oracles := { State.reset.oracles with adc := ⟨[30, 500], 0⟩ } }, rfl⟩,
    ⟨{ State.reset with oracles := { State.reset.oracles with adc := ⟨[30], 0⟩ } }, rfl⟩, rfl⟩

theorem witness_FrameRoundTrip :
    ∃ t, exec (.decode 0x18) State.reset = .next t ∧ t.answer = .decoded .up true true := ⟨_, rfl, by decide⟩

theorem witness_TrySendTakesOrDrops : State.reset.link.txReady = true ∧ busyNode.link.txReady = false := by decide

/-- An endless run whose first place is `TX_DONE` and whose others are `POLL`. -/
def txRun : Run where
  slots n := if n = 0 then .word 0x9100000000 else .word 0x0400000000
  states n :=
    let s := { busyNode with answer := .poll true }
    if n = 0 then s else { s with link := setTxReady s.link }
  steps n := by cases n <;> rfl

theorem witness_TxDoneFreesTheTransmitter :
    busyNode.link.txReady = false ∧ State.reset.link.txReady = true ∧
    txRun.FairTransmit ∧ (txRun.states 0).link.txReady = false := by
  refine ⟨rfl, rfl, ?_, rfl⟩
  rintro (_ | n) h
  · exact ⟨0, Nat.le_refl 0, 0x9100000000, rfl, rfl⟩
  · exact nomatch (show true = false from h)

theorem witness_TryReceiveReadsTheSlot : busyNode.link.rxFull = true ∧ State.reset.link.rxFull = false := by decide

/-- An empty slot; a full one with no scripted byte, and with one. -/
theorem witness_RxArriveFillsOrOverruns :
    State.reset.link.rxFull = false ∧ (busyNode.link.rxFull = true ∧ busyNode.oracles.overrun.script = []) ∧
    ∃ s : State, s.link.rxFull = true ∧ s.oracles.overrun.script = [0x5A] :=
  ⟨rfl, ⟨rfl, rfl⟩, { busyNode with oracles := { busyNode.oracles with overrun := ⟨[0x5A], 0⟩ } }, rfl, rfl⟩

/-- An operation of each unit and an environment step that have a next state; an operation neither `ARM` nor `SETPERIOD`. -/
theorem witness_UnitsShareNoState :
    (∃ t, exec (.arm 3) busyNode = .next t) ∧ (∃ t, exec (.send 0x01) busyNode = .next t) ∧
    (∃ t, exec .sampleDir busyNode = .next t) ∧ (∃ t, exec .flush busyNode = .next t) ∧
    (∀ m, Instr.flush ≠ .arm m) ∧ (∀ m, Instr.flush ≠ .setPeriod m) ∧
    (Instr.rxArrive 0x02).isEnvironment = true ∧ ∃ t, exec (.rxArrive 0x02) busyNode = .next t :=
  ⟨⟨_, rfl⟩, ⟨_, rfl⟩, ⟨_, rfl⟩, ⟨_, rfl⟩, nofun, nofun, rfl, _, rfl⟩

/-- A change of each kind that the statement speaks of. -/
theorem witness_EveryFieldHasItsWriters :
    (∃ t, exec (.arm 3) State.reset = .next t ∧ t.tick.armed ≠ false ∧ t.tick.reload ≠ 0 ∧ t.tick.cnt ≠ 0) ∧
    (∃ t, exec .cmpEvent (withTick true 1 1 false) = .next t ∧ t.tick.tickPending = true) ∧
    (∃ t, exec .ack (withTick true 1 1 true) = .next t ∧ t.tick.tickPending = false) ∧
    (∃ t, exec (.send 0x01) State.reset = .next t ∧ t.shout.portLog ≠ [] ∧ t.chip ≠ State.reset.chip) ∧
    (∃ t, exec (.trySend 0x18) State.reset = .next t ∧ t.link.txReady = false ∧ t.link.txData ≠ 0 ∧ t.link.txLog ≠ []) ∧
    (∃ t, exec .txDone busyNode = .next t ∧ t.link.txReady = true) ∧
    (∃ t, exec (.rxArrive 0x02) State.reset = .next t ∧ t.link.rxFull = true) ∧
    (∃ t, exec .flush busyNode = .next t ∧ t.link.rxFull = false) ∧
    (∃ t, exec (.rxArrive 0x08) busyNode = .next t ∧ t.link.rxOvr = true) :=
  ⟨⟨_, rfl, by decide⟩, ⟨_, rfl, by decide⟩, ⟨_, rfl, by decide⟩, ⟨_, rfl, by decide⟩, ⟨_, rfl, by decide⟩,
    ⟨_, rfl, by decide⟩, ⟨_, rfl, by decide⟩, ⟨_, rfl, by decide⟩, ⟨_, rfl, by decide⟩⟩

theorem witness_EveryEnabledStepCompletes :
    Instr.sampleDir.isEnvironment = false ∧ busyNode.tick.armed = true ∧ busyNode.link.txReady = false := by decide

theorem witness_CompareEventCommutesWithOtherUnits :
    busyNode.tick.armed = true ∧ (∀ m, Instr.send 0x01 ≠ .arm m) ∧ Instr.send 0x01 ≠ .disarm ∧
    (∀ m, Instr.send 0x01 ≠ .setPeriod m) ∧ Instr.send 0x01 ≠ .poll ∧ Instr.send 0x01 ≠ .ack ∧ Instr.send 0x01 ≠ .cmpEvent :=
  ⟨rfl, nofun, nofun, nofun, nofun, nofun, nofun⟩

theorem witness_SerialHardwareCommutesWithHost :
    (Instr.poll.isEnvironment = false ∧ Instr.poll ≠ .tryReceive ∧ Instr.poll ≠ .flush) ∧
    (Instr.poll.isEnvironment = false ∧ (∀ b, Instr.poll ≠ .trySend b) ∧ busyNode.link.txReady = false) :=
  ⟨⟨rfl, nofun, nofun⟩, rfl, nofun, rfl⟩

theorem witness_HostTurnsNeverStop :
    hostIssue Config.default State.reset.host = some (.arm 1) ∧ State.reset.params.Legal ∧
    ∃ t, hostTurn State.reset = .next t := ⟨by decide, test_default_legal, _, rfl⟩

/-- On a node of each kind. -/
theorem witness_BootArmsThenEntersTheLoop :
    (Config.default.armPeriod.toNat < 2 ^ Config.default.wCnt ∧ Config.default.armPeriod ≠ 0) ∧
    (let p : Params := { Config.default with role := .displaySerial }
     p.armPeriod.toNat < 2 ^ p.wCnt ∧ p.armPeriod ≠ 0 ∧ p.role = .displaySerial) := by decide

/-- A node with no task, armed with period 1. -/
def waitNode (pending : Bool) (pc : HostPc) (a : Answer) : State :=
  { withTick true 1 1 pending with host := { State.reset.host with pc := pc, tasks := [] }, answer := a }

/-- Its host waits, finds the tick, acknowledges it, and waits again. -/
def waitState : Nat → State
  | 0 => waitNode false .poll .nothing
  | 1 => waitNode true .poll .nothing
  | 2 => waitNode true .ack (.poll true)
  | _ => waitNode false (.task 0) .nothing

/-- Its places, over and over: a compare event and three host turns. -/
def waitRun : Run where
  slots n := if n % 4 = 0 then .word 0x8000000000 else .hostTurn
  states n := waitState (n % 4)
  steps n := by
    have h : n % 4 = 0 ∨ n % 4 = 1 ∨ n % 4 = 2 ∨ n % 4 = 3 := by omega
    rcases h with h | h | h | h
    · rw [h, show (n + 1) % 4 = 1 by omega]; rfl
    · rw [h, show (n + 1) % 4 = 2 by omega]; rfl
    · rw [h, show (n + 1) % 4 = 3 by omega]; rfl
    · rw [h, show (n + 1) % 4 = 0 by omega]; rfl

theorem waitRun_takes (n : Nat) (h : n % 4 = 0) : waitRun.takes n .cmpEvent :=
  ⟨0x8000000000, if_pos h, by show decode (waitState (n % 4)).params.wCnt _ = _; rw [h]; rfl⟩

theorem witness_WaitTickConsumesThePendingTick :
    ((withPc .poll (withTick true 3 2 true)).host.pc = .poll ∧ (withPc .poll (withTick true 3 2 true)).tick.tickPending = true) ∧
    waitRun.FairTick ∧ waitRun.HostRecurs ∧ waitRun.ByAgents 0 ∧
    (waitRun.states 0).params.wCnt ≤ 32 ∧ (waitRun.states 0).tick.cnt.toNat < 2 ^ (waitRun.states 0).params.wCnt ∧
    (waitRun.states 0).tick.cnt ≠ 0 ∧ (waitRun.states 0).tick.armed = true ∧ (waitRun.states 0).host.pc = .poll := by
  refine ⟨⟨rfl, rfl⟩, ?_, ?_, ?_, by decide, by decide, by decide, rfl, rfl⟩
  · exact fun n _ => ⟨4 * n, by omega, waitRun_takes _ (by omega)⟩
  · exact fun n => ⟨4 * n + 1, by omega, if_neg (by omega)⟩
  · intro m _
    by_cases h : m % 4 = 0
    · exact .inr ⟨_, waitRun_takes m h, rfl⟩
    · exact .inl (if_neg h)

/-- A disarmed node whose host polls for ever. -/
def hangRun : Run where
  slots _ := .hostTurn
  states _ := { withPc .poll State.reset with answer := .poll false }
  steps _ := rfl

/-- The state of the first two clauses, before a host turn and before an arrival; the run of the third. -/
theorem witness_WaitTickWhileDisarmedHangs :
    (let s := withPc .poll State.reset
     s.host.pc = .poll ∧ s.tick.armed = false ∧ s.tick.tickPending = false) ∧
    (let s := { withPc .poll State.reset with stream := [.hostTurn] }
     s.slot = some .hostTurn ∧ ∃ t, step s = .next t) ∧
    (let s := withWords [0x9000000002] (withPc .poll State.reset)
     s.slot = some (.word 0x9000000002) ∧ decode s.params.wCnt 0x9000000002 = .ok (.rxArrive 0x02) ∧
     (Instr.rxArrive 0x02).isEnvironment = true ∧ ∃ t, step s = .next t) ∧
    hangRun.ByAgents 0 ∧ (hangRun.states 0).host.pc = .poll ∧ (hangRun.states 0).tick.armed = false ∧
    (hangRun.states 0).tick.tickPending = false :=
  ⟨⟨rfl, rfl, rfl⟩, ⟨rfl, _, rfl⟩, ⟨rfl, rfl, rfl, _, rfl⟩, fun _ _ => .inl rfl, rfl, rfl, rfl⟩

/-- A period of zero, and the widest sum that does not wrap. -/
theorem witness_TaskFiringLaw :
    (32 ≤ 32 ∧ 0 < (100 : Count).toNat ∧ (100 : Count).toNat < 2 ^ 32 ∧ (⟨0, 0, .stickLink⟩ : Task).elapsed = 0 ∧ (0 : Count).toNat + (100 : Count).toNat ≤ 2 ^ 32) ∧
    (8 ≤ 32 ∧ 0 < (1 : Count).toNat ∧ (1 : Count).toNat < 2 ^ 8 ∧ (⟨0xFF, 0, .stickLink⟩ : Task).elapsed = 0 ∧
      (0xFF : Count).toNat + (1 : Count).toNat ≤ 2 ^ 8) := by decide

/-- A display node whose Direction task has run up `elapsed`, with a transition table. -/
def displayNode (elapsed : Count) (table : List DirEdge) : State :=
  let s := withPc (.task 0) (withParams { Config.default with role := .displaySerial, dirTable := table })
  { s with host := { s.host with tasks := [⟨5, elapsed, .direction⟩], lastIn := .right } }

theorem witness_TaskNotDueOnlyAccumulates :
    (displayNode 3 []).host.pc = .task 0 ∧ (displayNode 3 []).host.tasks[0]? = some ⟨5, 3, .direction⟩ ∧
    (displayNode 3 []).params.wElapsed ≤ 32 ∧ (4 : Count).toNat < (5 : Count).toNat ∧
    (4 : Count).toNat = ((3 : Count).toNat + (displayNode 3 []).params.tickInc.toNat) % 2 ^ (displayNode 3 []).params.wElapsed := by
  decide

theorem witness_PatternMovesSaturate : singleBit 0x01 = true ∧ singleBit 0x80 = true ∧ 7 ≤ 7 := by decide

/-- A display node fed by its own axes, with two samples to come. -/
def analogNode : State :=
  let s := displayNode 4 []
  { s with
    params := { s.params with role := .displayAnalog }
    oracles := { s.oracles with adc := ⟨[30, 500], 0⟩ } }

/-- Fed by the link, with an edge that matches and with none, the self-loop; fed by its own axes. -/
theorem witness_DirectionTaskTicksInTwoPhases :
    (let s := displayNode 4 [⟨.start, .right, .movingRight⟩]
     s.host.pc = .task 0 ∧ s.host.tasks[0]? = some ⟨5, 4, .direction⟩ ∧ s.params.role = .displaySerial ∧
     s.params.wElapsed ≤ 32 ∧ (5 : Count).toNat ≤ ((4 : Count).toNat + s.params.tickInc.toNat) % 2 ^ s.params.wElapsed) ∧
    (let s := displayNode 4 []
     s.host.pc = .task 0 ∧ s.host.tasks[0]? = some ⟨5, 4, .direction⟩ ∧ s.params.role = .displaySerial ∧
     s.params.wElapsed ≤ 32 ∧ (5 : Count).toNat ≤ ((4 : Count).toNat + s.params.tickInc.toNat) % 2 ^ s.params.wElapsed ∧
     ∀ e ∈ s.params.dirTable, ¬(e.source = s.host.dirState ∧ e.input = s.host.lastIn)) ∧
    (analogNode.host.pc = .task 0 ∧ analogNode.host.tasks[0]? = some ⟨5, 4, .direction⟩ ∧
     analogNode.params.role = .displayAnalog ∧ analogNode.params.wElapsed ≤ 32 ∧
     analogNode.oracles.adc.script = [30, 500] ∧
     (5 : Count).toNat ≤ ((4 : Count).toNat + analogNode.params.tickInc.toNat) % 2 ^ analogNode.params.wElapsed) := by
  decide

/-- A sender about to sample, with a ready and with a busy transmitter. -/
def senderNode (txReady : Bool) : State :=
  { withPc (.sampleStick 0) (withLink txReady 0x18 false 0) with oracles := ⟨⟨[512, 1023], 0⟩, ⟨[true], 0⟩, ⟨[], 0⟩⟩ }

/-- The same sender one turn earlier, at its due task, its machine not yet or already running. -/
def dueSender (txReady : Bool) (st : StickState) : State :=
  let s := senderNode txReady
  { s with host := { s.host with pc := .task 0, stickState := st } }

/-- From `start` and from `running`, with a ready and with a busy transmitter. -/
theorem witness_SenderActionSendsOneFrame_due :
    ∀ s ∈ [dueSender true .start, dueSender false .start, dueSender true .running, dueSender false .running],
      s.host.pc = .task 0 ∧ s.host.tasks[0]? = some ⟨1, 0, .stickLink⟩ ∧ s.params.wElapsed ≤ 32 ∧
      (1 : Count).toNat ≤ ((0 : Count).toNat + s.params.tickInc.toNat) % 2 ^ s.params.wElapsed ∧
      s.oracles.adc.script = [512, 1023] ∧ s.oracles.pin.script = [true] := by decide

theorem witness_SenderActionSendsOneFrame :
    ((senderNode true).host.pc = .sampleStick 0 ∧ (senderNode true).oracles.adc.script = [512, 1023] ∧
      (senderNode true).oracles.pin.script = [true] ∧ (senderNode true).link.txReady = true) ∧
    ((senderNode false).host.pc = .sampleStick 0 ∧ (senderNode false).oracles.adc.script = [512, 1023] ∧
      (senderNode false).oracles.pin.script = [true] ∧ (senderNode false).link.txReady = false) := by decide

/-- With a frame in the slot, with a byte that is none, and with nothing in it. -/
theorem witness_ReceiveFrameTakesTheNewestInput :
    (let s := withPc .service (withLink true 0 true 0x02)
     s.host.pc = .service ∧ s.link.rxFull = true ∧ frameValid s.link.rxData = true) ∧
    (let s := withPc .service (withLink true 0 true 0x03)
     s.host.pc = .service ∧ s.link.rxFull = true ∧ frameValid s.link.rxData = false) ∧
    (let s := withPc .service (withLink true 0 false 0x02)
     s.host.pc = .service ∧ s.link.rxFull = false) := by decide

/-- A sender about to send `0x18`, a display about to receive it. -/
def demoPair : NodePair :=
  { sender := withWords [0x3200000018] State.reset, display := withWords [0x9000000018] State.reset, arrived := [] }

theorem witness_IdealChannelDeliversWhatWasSent :
    demoPair.arrived = [] ∧ (∃ m, pairRun .ideal [.sender, .display] demoPair = some m ∧ m.arrived = [0x18]) ∧
    (∃ m, wholePairRun .ideal [.sender, .display] demoPair = some m) ∧
    ∃ m, pairRun .lossy [.sender, .display] demoPair = some m :=
  ⟨rfl, ⟨_, rfl, by decide⟩, ⟨_, rfl⟩, _, rfl⟩

/-- R275: an ideal channel admits no byte that was not sent before. -/
theorem test_ideal_channel_order : pairRun .ideal [.display, .sender] demoPair = none := by decide

/-- R275: an ideal channel that has not delivered a byte sent has had no whole run yet, a lossy one may have. -/
theorem test_ideal_channel_owes :
    (let n := { demoPair with display := State.reset }
     wholePairRun .ideal [.sender] n = none ∧ (wholePairRun .lossy [.sender] n).isSome = true) := by decide

end Sys2Proof.Tests
end

section
/-! PROOFS. The tick source (40_tick_source.md): the next state of each operation that has one, what a row of compare
events does to the TICK unit, and the statements settled from that. -/

namespace Sys2Proof.Machine

/-! ## One operation -/

/-- A run goes on from the next state of its first operation (20_memory.md R69). -/
theorem runOps_cons_of_next {i : Instr} {s t : State} (h : exec i s = .next t) (rest : List Instr) :
    runOps (i :: rest) s = runOps rest t := by
  rw [runOps, h]

/-- `ARM` of a legal period loads both counters and arms (R111). -/
theorem exec_arm_of_legal {s : State} {m : Count} (hm : m.toNat < 2 ^ s.params.wCnt) (h0 : m ≠ 0) :
    exec (.arm m) s =
      .next { s with tick := { s.tick with reload := m, cnt := m, armed := true }, answer := .nothing } := by
  rw [exec, execArm, periodProblem_eq_none.mpr ⟨hm, h0⟩]

/-- A compare event of an armed timer takes the interrupt (R118). -/
theorem exec_cmpEvent_of_armed {s : State} (h : s.tick.armed = true) :
    exec .cmpEvent s = .next { s with tick := takeInterrupt s.params.wCnt s.tick } := by
  rw [exec, execCmpEvent, if_pos h]

/-! ## A row of compare events -/

/-- Compare events in a row take the interrupt as often, and no other unit changes. -/
theorem runOps_replicate_cmpEvent {s : State} (h : s.tick.armed = true) (k : Nat) :
    runOps (List.replicate k .cmpEvent) s = .next { s with tick := (takeInterrupt s.params.wCnt)^[k] s.tick } := by
  induction k generalizing s with
  | zero => rfl
  | succ k ih =>
    rw [List.replicate_succ, runOps_cons_of_next (exec_cmpEvent_of_armed h), ih ((takeInterrupt_armed _ _).trans h)]
    rfl

section Countdown

variable {w : Nat} {t : TickUnit} (hw : w ≤ 32) (hc : t.cnt.toNat < 2 ^ w)
include hw hc

/-- A count that is not 0 stays in its width when it goes down by one. -/
theorem narrow_cnt_sub_one (h0 : t.cnt ≠ 0) : narrow w (t.cnt - 1) = t.cnt - 1 := by
  have hpred := narrow_pred hw h0 hc
  bv_omega

/-- A count above 1 goes down by one (R118). -/
theorem takeInterrupt_of_one_lt (h1 : 1 < t.cnt.toNat) : takeInterrupt w t = { t with cnt := t.cnt - 1 } := by
  have hnarrow := narrow_cnt_sub_one hw hc (by bv_omega)
  rcases takeInterrupt_cases w t with ⟨hzero, _⟩ | ⟨_, h⟩
  · bv_omega
  · rw [h, hnarrow]

/-- At a count of 1 the flag is set and the count reloaded (R118). -/
theorem takeInterrupt_of_eq_one (h1 : t.cnt.toNat = 1) :
    takeInterrupt w t = { t with tickPending := true, cnt := t.reload } := by
  have hnarrow := narrow_cnt_sub_one hw hc (by bv_omega)
  rcases takeInterrupt_cases w t with ⟨_, h⟩ | ⟨hne, _⟩
  · exact h
  · bv_omega

/-- Fewer events than the count only count down: the flag and the rest of the unit stand. -/
theorem iterate_takeInterrupt_of_lt {k : Nat} (hk : k < t.cnt.toNat) :
    (takeInterrupt w)^[k] t = { t with cnt := t.cnt - BitVec.ofNat 32 k } := by
  induction k with
  | zero => simp
  | succ k ih =>
    have hcnt : (t.cnt - BitVec.ofNat 32 k).toNat = t.cnt.toNat - k := by bv_omega
    have hstep : t.cnt - BitVec.ofNat 32 k - 1 = t.cnt - BitVec.ofNat 32 (k + 1) := by bv_omega
    rw [Function.iterate_succ_apply', ih (by omega),
      takeInterrupt_of_one_lt hw (by rw [hcnt]; omega) (by rw [hcnt]; omega), hstep]

/-- As many events as the count set the flag and reload (R119, R124). -/
theorem iterate_takeInterrupt_cnt (h0 : t.cnt ≠ 0) :
    (takeInterrupt w)^[t.cnt.toNat] t = { t with tickPending := true, cnt := t.reload } := by
  obtain ⟨k, hk⟩ : ∃ k, t.cnt.toNat = k + 1 := Nat.exists_eq_succ_of_ne_zero (by bv_omega)
  have hcnt : (t.cnt - BitVec.ofNat 32 k).toNat = 1 := by bv_omega
  rw [hk, Function.iterate_succ_apply', iterate_takeInterrupt_of_lt hw hc (by omega),
    takeInterrupt_of_eq_one hw (by rw [hcnt]; omega) hcnt]

/-- From a clear flag, the event that uses the count up is the first to set it (R124). -/
theorem iterate_takeInterrupt_tickPending (h0 : t.cnt ≠ 0) (hp : t.tickPending = false) {k : Nat}
    (hk : k ≤ t.cnt.toNat) : ((takeInterrupt w)^[k] t).tickPending = decide (k = t.cnt.toNat) := by
  rcases Nat.lt_or_eq_of_le hk with hlt | rfl
  · rw [iterate_takeInterrupt_of_lt hw hc hlt, hp, decide_eq_false hlt.ne]
  · rw [iterate_takeInterrupt_cnt hw hc h0, decide_eq_true rfl]

end Countdown

/-! ## The statements -/

/-- Settles O17: `POLL` hands out the flag, and a result handed out changes no other field. -/
theorem pollReturnsTheFlag : Obligations.PollReturnsTheFlag := by
  intro s
  rw [exec, execPoll, State.hand]

/-- Settles O21: `ARM M` leaves the count at `M` and the flag clear, and from there the event that uses the count up is
the first to set the flag. -/
theorem firstTickAfterExactlyM : Obligations.FirstTickAfterExactlyM := by
  intro s m k hw hm h0 hp hk
  have hrun := runOps_cons_of_next (exec_arm_of_legal hm h0) (List.replicate k .cmpEvent)
  rw [runOps_replicate_cmpEvent rfl] at hrun
  exact ⟨_, hrun,
    iterate_takeInterrupt_tickPending (t := { s.tick with reload := m, cnt := m, armed := true }) hw hm h0 hp hk⟩

end Sys2Proof.Machine
end

section
/-! PROOFS. The direction decoder (42_direction_decoder.md): the thresholds as one chain of comparisons, the predicate of
each direction, and the statements settled from that. -/

namespace Sys2Proof.Machine

/-- The comparators and the priority network as one chain of comparisons (R171, R172). -/
theorem classify_eq_ite (x y : Sample) :
    classify x y =
      if 1000 < y.toNat ∧ 100 < x.toNat ∧ x.toNat < 900 then .up
      else if y.toNat < 50 ∧ 100 < x.toNat ∧ x.toNat < 900 then .down
      else if 1000 < x.toNat ∧ 100 < y.toNat ∧ y.toNat < 900 then .right
      else if x.toNat < 50 ∧ 100 < y.toNat ∧ y.toNat < 900 then .left
      else .neutral := by
  simp only [classify, Bool.and_eq_true, decide_eq_true_eq]

/-- The predicate of each of the four directions (R172), one axis past its threshold and the other in the middle band;
`Neutral` has none of its own. -/
def PointsTo (x y : Sample) : Direction → Prop
  | .up => 1000 < y.toNat ∧ 100 < x.toNat ∧ x.toNat < 900
  | .down => y.toNat < 50 ∧ 100 < x.toNat ∧ x.toNat < 900
  | .right => 1000 < x.toNat ∧ 100 < y.toNat ∧ y.toNat < 900
  | .left => x.toNat < 50 ∧ 100 < y.toNat ∧ y.toNat < 900
  | .neutral => False

/-- A direction other than `Neutral` is answered only where its predicate holds. -/
theorem pointsTo_classify {x y : Sample} (h : classify x y ≠ .neutral) : PointsTo x y (classify x y) := by
  rw [classify_eq_ite] at h ⊢
  split_ifs at h ⊢ with hup hdown hright hleft
  · exact hup
  · exact hdown
  · exact hright
  · exact hleft
  · exact h rfl

/-- Where a direction's predicate holds, every check before it fails: an axis is past one threshold or in the middle band,
never two of these. -/
theorem classify_of_pointsTo {x y : Sample} {d : Direction} (h : PointsTo x y d) : classify x y = d := by
  rw [classify_eq_ite]
  cases d with
  | up => exact if_pos h
  | down =>
    obtain ⟨hy, hlo, hhi⟩ := h
    rw [if_neg (by omega), if_pos ⟨hy, hlo, hhi⟩]
  | right =>
    obtain ⟨hx, hlo, hhi⟩ := h
    rw [if_neg (by omega), if_neg (by omega), if_pos ⟨hx, hlo, hhi⟩]
  | left =>
    obtain ⟨hx, hlo, hhi⟩ := h
    rw [if_neg (by omega), if_neg (by omega), if_neg (by omega), if_pos ⟨hx, hlo, hhi⟩]
  | neutral => exact h.elim

/-- Each direction other than `Neutral` is answered exactly where its own predicate holds (R173). -/
theorem classify_eq_iff_pointsTo {x y : Sample} {d : Direction} (hd : d ≠ .neutral) :
    classify x y = d ↔ PointsTo x y d :=
  ⟨fun h => h ▸ pointsTo_classify (h ▸ hd), classify_of_pointsTo⟩

/-- Settles O31: the answer is the decoder's chain of comparisons, and a result handed out changes no other field. -/
theorem classifyByThresholds : Obligations.ClassifyByThresholds := by
  intro s x y
  rw [exec, execClassify, State.hand, classify_eq_ite]

/-- Settles O32: the predicate of each direction decides its answer alone, so the order of the checks does not. -/
theorem directionRegionsAreDisjoint : Obligations.DirectionRegionsAreDisjoint := by
  intro x y
  exact ⟨classify_eq_iff_pointsTo (d := .up) (by decide), classify_eq_iff_pointsTo (d := .down) (by decide),
    classify_eq_iff_pointsTo (d := .right) (by decide), classify_eq_iff_pointsTo (d := .left) (by decide)⟩

end Sys2Proof.Machine
end

section
/-! PROOFS. The link codec (43_link_codec.md): `TRYSEND` on a ready and on a busy transmitter, and the statements settled
from that. -/

namespace Sys2Proof.Machine

/-- A ready transmitter takes the byte, and `TRYSEND` answers true (R199). -/
theorem exec_trySend_of_ready {s : State} (h : s.link.txReady = true) (b : Byte) :
    exec (.trySend b) s = .next { s with link := takeForTransmit b s.link, answer := .sent true } := by
  rcases execTrySend_cases b s with ⟨_, hready⟩ | ⟨hbusy, _⟩
  · rw [exec, hready]
  · exact absurd h (by simp [hbusy])

/-- A busy transmitter drops the byte, and `TRYSEND` only hands out false (R199, R200). -/
theorem exec_trySend_of_busy {s : State} (h : s.link.txReady = false) (b : Byte) :
    exec (.trySend b) s = .next (s.hand (.sent false)) := by
  rcases execTrySend_cases b s with ⟨hready, _⟩ | ⟨_, hbusy⟩
  · exact absurd h (by simp [hready])
  · rw [exec, hbusy]

/-- Settles O39: a ready transmitter takes the byte, and with a busy one a result handed out changes no other field. -/
theorem trySendTakesOrDrops : Obligations.TrySendTakesOrDrops := by
  intro s b
  constructor
  · intro h
    rw [exec_trySend_of_ready h, takeForTransmit]
  · intro h
    rw [exec_trySend_of_busy h, State.hand]

/-- Settles O42: clearing `RXFULL` leaves every other field of the LINK unit. -/
theorem flushEmptiesTheSlot : Obligations.FlushEmptiesTheSlot := by
  intro s
  rw [exec, execFlush, clearRxFull]

end Sys2Proof.Machine
end

section
/-! PROOFS. The encoding (30_encoding.md): what each row of the opcode map reads and which word it stands for, and the
statements settled from that. -/

namespace Sys2Proof

open Machine

/-! ## The word of a row's opcode and a field of its format (R87)

With `decode_packWord`, one lemma per format. -/

section
variable {wCnt : Nat} {op : Byte}

theorem decode_packWord_n {i : Instr} (h : opcodeMap.lookup op = some (.n i)) : decode wCnt (packWord op 0) = .ok i :=
  decode_packWord h

theorem decode_packWord_p {mk : Count → Instr} (h : opcodeMap.lookup op = some (.p mk)) {m : Count}
    (hm : fitsWidth wCnt m = true) : decode wCnt (packWord op m) = .ok (mk m) := by
  rw [decode_packWord h, readRow, formatP, if_pos hm]

theorem decode_packWord_b {mk : Byte → Instr} (h : opcodeMap.lookup op = some (.b mk)) (b : Byte) :
    decode wCnt (packWord op (fieldB b)) = .ok (mk b) := by
  rw [decode_packWord h, readRow, formatB, if_pos (fieldB_high b), fieldB_low]

theorem decode_packWord_xy {mk : Sample → Sample → Instr} (h : opcodeMap.lookup op = some (.xy mk)) (x y : Sample) :
    decode wCnt (packWord op (fieldXY x y)) = .ok (mk x y) := by
  rw [decode_packWord h, readRow, formatXY, if_pos ⟨fieldXY_low x y, fieldXY_high x y⟩, fieldXY_x, fieldXY_y]

theorem decode_packWord_df {mk : Direction → Bool → Instr} (h : opcodeMap.lookup op = some (.df mk)) (d : Direction)
    (f : Bool) : decode wCnt (packWord op (fieldDF d f)) = .ok (mk d f) := by
  simp [decode_packWord h, readRow, formatDF, dirOfNibble_dir4]

end

/-- Settles O2: the opcode of each operation's word selects its row, whose format reads the operands back. -/
theorem encodeThenDecodeIsIdentity : Obligations.EncodeThenDecodeIsIdentity := by
  intro wCnt i _ _ hwf
  cases i with
  | arm m => exact decode_packWord_p rfl hwf
  | setPeriod m => exact decode_packWord_p rfl hwf
  | disarm => exact decode_packWord_n rfl
  | poll => exact decode_packWord_n rfl
  | ack => exact decode_packWord_n rfl
  | sampleDir => exact decode_packWord_n rfl
  | tryReceive => exact decode_packWord_n rfl
  | flush => exact decode_packWord_n rfl
  | cmpEvent => exact decode_packWord_n rfl
  | txDone => exact decode_packWord_n rfl
  | send b => exact decode_packWord_b rfl b
  | decode b => exact decode_packWord_b rfl b
  | trySend b => exact decode_packWord_b rfl b
  | rxArrive b => exact decode_packWord_b rfl b
  | classify x y => exact decode_packWord_xy rfl x y
  | encode d f => exact decode_packWord_df rfl d f

/-! ## The word a row stands for -/

/-- The encoder writes the row's operations with opcode `op` and the field of the row's format, and every operand the
format holds is well-formed. -/
def Row.Encodes (wCnt : Nat) (op : Byte) : Row → Prop
  | .n i => encode i = packWord op 0 ∧ i.wf wCnt = true
  | .p mk => ∀ m, encode (mk m) = packWord op m ∧ (mk m).wf wCnt = fitsWidth wCnt m
  | .b mk => ∀ b, encode (mk b) = packWord op (fieldB b) ∧ (mk b).wf wCnt = true
  | .xy mk => ∀ x y, encode (mk x y) = packWord op (fieldXY x y) ∧ (mk x y).wf wCnt = true
  | .df mk => ∀ d f, encode (mk d f) = packWord op (fieldDF d f) ∧ (mk d f).wf wCnt = true

/-- Every row of the opcode map is written by the encoder under its own opcode (R90). -/
theorem encodes_of_mem_opcodeMap (wCnt : Nat) {op : Byte} {r : Row} (h : (op, r) ∈ opcodeMap) : r.Encodes wCnt op := by
  have hall : ∀ e ∈ opcodeMap, e.2.Encodes wCnt e.1 := by
    simp [opcodeMap, Row.Encodes, encode, Instr.wf]
  exact hall _ h

/-- What a row reads from a field is the operation whose word has that field. -/
theorem encode_of_readRow {wCnt : Nat} {op : Byte} {v : BitVec 32} {r : Row} {i : Instr} (he : r.Encodes wCnt op)
    (h : readRow wCnt v r = .ok i) : encode i = packWord op v ∧ i.wf wCnt = true := by
  cases r with
  | n j => obtain ⟨rfl, rfl⟩ := formatN_ok h; exact he
  | p mk =>
    obtain ⟨hfits, rfl⟩ := formatP_ok h
    exact ⟨(he v).1, (he v).2.trans hfits⟩
  | b mk => obtain ⟨b, rfl, rfl⟩ := formatB_ok h; exact he b
  | xy mk => obtain ⟨x, y, rfl, rfl⟩ := formatXY_ok h; exact he x y
  | df mk => obtain ⟨d, f, rfl, rfl⟩ := formatDF_ok h; exact he d f

/-- Settles O3: the row that reads the word's field is the one whose word has that opcode and that field. -/
theorem decodedWordIsItsEncoding : Obligations.DecodedWordIsItsEncoding := by
  intro wCnt w i h
  obtain ⟨r, hmem, hread⟩ := decode_ok h
  rw [← packWord_opcodeOf_operandOf w]
  simpa using encode_of_readRow (encodes_of_mem_opcodeMap wCnt hmem) hread

/-! ## The zero bits of a row as a mask (R92) -/

/-- Ones at the `len` bits from `start` up. -/
def onesAt (start len : Nat) : BitVec 32 := (BitVec.allOnes len).setWidth 32 <<< start

/-- A mask over a field is 0 exactly when the field is. -/
theorem and_onesAt_eq_zero_iff {v : BitVec 32} {start len : Nat} (h : start + len ≤ 32) :
    v &&& onesAt start len = 0#32 ↔ v.extractLsb' start len = 0#len := by
  constructor
  · intro hz
    apply BitVec.eq_of_getLsbD_eq
    intro k hk
    have hbit := congrArg (fun z => BitVec.getLsbD z (start + k)) hz
    have hlt : start + k < 32 := by omega
    have hk32 : k < 32 := by omega
    simpa [onesAt, hk, hlt, hk32] using hbit
  · intro hz
    apply BitVec.eq_of_getLsbD_eq
    intro k hk
    have hbit := congrArg (fun z => BitVec.getLsbD z (k - start)) hz
    by_cases hin : start ≤ k ∧ k - start < len
    · obtain ⟨hle, hlt⟩ := hin
      have hv : v.getLsbD k = false := by simpa [hlt, Nat.add_sub_cancel' hle] using hbit
      rw [BitVec.getLsbD_and, hv, Bool.false_and, BitVec.getLsbD_zero]
    · simp [onesAt]
      omega

/-- The bits a row's format asks to be 0, at `W_CNT` 32. -/
def Row.zeroMask : Row → BitVec 32
  | .n _ => onesAt 0 32
  | .p _ => onesAt 0 0
  | .b _ => onesAt 8 24
  | .xy _ => onesAt 10 6 ||| onesAt 26 6
  | .df _ => onesAt 5 27

/-- The opcode table writes each row's opcode, and the opcode's bits with the row's zero bits as the mask. -/
theorem opcodeRows_eq_map :
    opcodeRows = opcodeMap.map (fun e => (packWord e.1 0, packWord 0xFF e.2.zeroMask)) := by
  decide

theorem packWord_inj {op op' : Byte} {v v' : BitVec 32} : packWord op v = packWord op' v' ↔ op = op' ∧ v = v' := by
  constructor
  · intro h
    exact ⟨by simpa using congrArg opcodeOf h, by simpa using congrArg operandOf h⟩
  · rintro ⟨rfl, rfl⟩
    rfl

/-- A word meets a row's match and mask exactly when it has its opcode and its zero bits. -/
theorem and_mask_eq_match_iff (w : OpWord) (op : Byte) (m : BitVec 32) :
    w &&& packWord 0xFF m = packWord op 0 ↔ opcodeOf w = op ∧ operandOf w &&& m = 0 := by
  have hand : w &&& packWord 0xFF m = packWord (opcodeOf w) (operandOf w &&& m) := by
    conv_lhs => rw [← packWord_opcodeOf_operandOf w]
    rw [packWord, packWord, packWord, BitVec.and_append, show (0xFF : Byte) = BitVec.allOnes 8 from rfl,
      BitVec.and_allOnes]
  rw [hand, packWord_inj]

/-- A check passes exactly when its condition holds. -/
theorem exists_ite_eq_ok_iff {c : Prop} [Decidable c] {i : Instr} {e : Reject} :
    (∃ j, (if c then Except.ok i else Except.error e) = .ok j) ↔ c := by
  by_cases h : c <;> simp [h]

/-- A row reads a field exactly when its zero bits are 0 and, in format DF, the nibble is a `DIR4`. -/
theorem exists_readRow_iff (v : BitVec 32) (r : Row) :
    (∃ i, readRow 32 v r = .ok i) ↔
      v &&& r.zeroMask = 0 ∧ ((∃ mk, r = .df mk) → ∃ d, dirOfNibble (v.extractLsb' 0 4) = some d) := by
  cases r with
  | n i => simp (disch := decide) [readRow, formatN, Row.zeroMask, exists_ite_eq_ok_iff, and_onesAt_eq_zero_iff]
  | p mk =>
    have hfits : fitsWidth 32 v = true := decide_eq_true v.isLt
    simp [readRow, formatP, hfits, Row.zeroMask, onesAt]
  | b mk => simp (disch := decide) [readRow, formatB, Row.zeroMask, exists_ite_eq_ok_iff, and_onesAt_eq_zero_iff]
  | xy mk =>
    simp (disch := decide) [readRow, formatXY, Row.zeroMask, exists_ite_eq_ok_iff, BitVec.and_or_distrib_left,
      and_onesAt_eq_zero_iff]
  | df mk =>
    by_cases hzero : v.extractLsb' 5 27 = 0#27
    · cases hd : dirOfNibble (v.extractLsb' 0 4) <;>
        simp (disch := decide) [readRow, formatDF, Row.zeroMask, and_onesAt_eq_zero_iff, hzero, hd]
    · simp (disch := decide) [readRow, formatDF, Row.zeroMask, and_onesAt_eq_zero_iff, hzero]

/-- A row of the map is the one its opcode finds. -/
theorem lookup_of_mem_opcodeMap {op : Byte} {r : Row} (h : (op, r) ∈ opcodeMap) : opcodeMap.lookup op = some r := by
  have hall : ∀ e ∈ opcodeMap, opcodeMap.lookup e.1 = some e.2 := by
    simp only [opcodeMap, List.forall_mem_cons]
    refine ⟨rfl, rfl, rfl, rfl, rfl, rfl, rfl, rfl, rfl, rfl, rfl, rfl, rfl, rfl, rfl, rfl, ?_⟩
    exact List.forall_mem_nil _
  exact hall _ h

/-- A word is legal exactly when a row of its opcode reads its field. -/
theorem exists_decode_iff (wCnt : Nat) (w : OpWord) :
    (∃ i, decode wCnt w = .ok i) ↔
      ∃ r, (opcodeOf w, r) ∈ opcodeMap ∧ ∃ i, readRow wCnt (operandOf w) r = .ok i := by
  constructor
  · rintro ⟨i, h⟩
    obtain ⟨r, hmem, hread⟩ := decode_ok h
    exact ⟨r, hmem, i, hread⟩
  · rintro ⟨r, hmem, i, hread⟩
    exact ⟨i, by simpa only [decode, lookup_of_mem_opcodeMap hmem] using hread⟩

/-- Format DF is `ENCODE`'s alone (R90). -/
theorem exists_df_iff_of_mem_opcodeMap {op : Byte} {r : Row} (h : (op, r) ∈ opcodeMap) :
    (∃ mk, r = .df mk) ↔ op = 0x30 := by
  have hall : ∀ e ∈ opcodeMap, (∃ mk, e.2 = .df mk) ↔ e.1 = 0x30 := by simp [opcodeMap]
  exact hall _ h

/-- The five nibbles that encode a direction (R81). -/
theorem exists_dirOfNibble_iff (n : Nibble) :
    (∃ d, dirOfNibble n = some d) ↔ n = 0b0000 ∨ n = 0b0001 ∨ n = 0b0010 ∨ n = 0b0100 ∨ n = 0b1000 := by
  rw [← Option.isSome_iff_exists]
  revert n
  decide

/-- The low bits of a word are those of its operand field. -/
theorem extractLsb'_operandOf (w : OpWord) : (operandOf w).extractLsb' 0 4 = w.extractLsb' 0 4 := by
  rw [operandOf, BitVec.extractLsb'_extractLsb'_of_le (by decide)]

/-- Settles O4: the table's rows are the opcode map's, a row's mask asks for the zero bits its format checks, and what
remains of format DF is the nibble of an `ENCODE`. -/
theorem legalWordsAreTheTableRows : Obligations.LegalWordsAreTheTableRows := by
  intro w
  rw [exists_decode_iff, ← exists_dirOfNibble_iff, ← extractLsb'_operandOf]
  simp only [opcodeRows_eq_map, List.mem_map, exists_exists_and_eq_and, and_mask_eq_match_iff, exists_readRow_iff]
  constructor
  · rintro ⟨r, hmem, hzero, hdir⟩
    exact ⟨⟨(opcodeOf w, r), hmem, rfl, hzero⟩, fun h => hdir ((exists_df_iff_of_mem_opcodeMap hmem).mpr h)⟩
  · rintro ⟨⟨⟨op, r⟩, hmem, rfl, hzero⟩, hdir⟩
    exact ⟨r, hmem, hzero, fun h => hdir ((exists_df_iff_of_mem_opcodeMap hmem).mp h)⟩

/-- Settles O1: each of the six words is its opcode's row and a field of its format. -/
theorem decodeReadsSpecWords : Obligations.DecodeReadsSpecWords := by
  refine ⟨?_, ?_, ?_, ?_, ?_, ?_⟩
  · exact decode_packWord_p (op := 0x01) (m := 3) rfl rfl
  · exact decode_packWord_b (op := 0x10) rfl 0x01
  · exact decode_packWord_xy (op := 0x20) rfl 512 1023
  · exact decode_packWord_df (op := 0x30) rfl .up true
  · exact decode_packWord_n (op := 0x80) rfl
  · exact decode_packWord_b (op := 0x90) rfl 0x02

end Sys2Proof
end

section
/-! PROOFS. What an operation leaves behind, as one relation with a row per outcome; the rules of the single operations,
and which part of the state each can touch (10_state.md R37, 20_memory.md R73). -/

namespace Sys2Proof.Machine

/-! ## The port writes of a `SEND` -/

/-- The port and the chip after some port writes (41_shift_out.md R152). -/
def portRun (p : Params) (masks : List Byte) (a : Byte × Chip) : Byte × Chip :=
  masks.foldl (fun a m => (m, chipReact p a.1 m a.2)) a

/-- The last of the masks leaves every line low (R141). -/
theorem getLast?_sendMasks (p : Params) (pattern : Byte) : (sendMasks p pattern).getLast? = some 0x00 := by
  rw [sendMasks, ← portMask_idle p]
  simp

/-- `SEND` as one update of the SHOUT unit and the chip. -/
theorem exec_send (s : State) (pattern : Byte) :
    exec (.send pattern) s = .next { s with
      shout := { port := 0x00, portLog := s.shout.portLog ++ sendMasks s.params pattern }
      chip := (portRun s.params (sendMasks s.params pattern) (s.shout.port, s.chip)).2
      answer := .nothing } := by
  rw [exec, execSend, foldl_portWrite, getLast?_sendMasks]
  rfl

/-! ## The outcomes -/

/-- What an operation can leave behind, one row per outcome. -/
inductive Effect (s : State) : Instr → State → Prop where
  | armRefused {m r} (h : periodProblem s.params.wCnt m = some r) : Effect s (.arm m) (s.refuse r)
  | arm {m} (h : periodProblem s.params.wCnt m = none) : Effect s (.arm m)
      { s with tick := { s.tick with reload := m, cnt := m, armed := true }, answer := .nothing }
  | disarm : Effect s .disarm { s with tick := { s.tick with armed := false }, answer := .nothing }
  | setPeriodRefused {m r} (h : periodProblem s.params.wCnt m = some r) : Effect s (.setPeriod m) (s.refuse r)
  | setPeriod {m} (h : periodProblem s.params.wCnt m = none) : Effect s (.setPeriod m)
      { s with tick := { s.tick with reload := m }, answer := .nothing }
  | poll : Effect s .poll (s.hand (.poll s.tick.tickPending))
  | ack : Effect s .ack { s with tick := clearTickPending s.tick, answer := .nothing }
  | send {pattern} : Effect s (.send pattern)
      { s with
        shout := { port := 0x00, portLog := s.shout.portLog ++ sendMasks s.params pattern }
        chip := (portRun s.params (sendMasks s.params pattern) (s.shout.port, s.chip)).2
        answer := .nothing }
  | classify {x y} : Effect s (.classify x y) (s.hand (.direction (classify x y)))
  | sampleDir : Effect s .sampleDir ((adcRead s.params.chY (adcRead s.params.chX s).2).2.hand
      (.direction (classify (adcRead s.params.chX s).1 (adcRead s.params.chY (adcRead s.params.chX s).2).1)))
  | encode {d f} : Effect s (.encode d f) (s.hand (.frame (packFrame d f)))
  | decode {b} : Effect s (.decode b) (s.hand (.decoded (frameDirection b) (frameFlag b) (frameValid b)))
  | sent {b} (h : s.link.txReady = true) : Effect s (.trySend b)
      { s with link := takeForTransmit b s.link, answer := .sent true }
  | dropped {b} (h : s.link.txReady = false) : Effect s (.trySend b) (s.hand (.sent false))
  | received (h : s.link.rxFull = true) : Effect s .tryReceive
      { s with
        link := if s.params.rxReadClears then clearRxFull s.link else s.link
        answer := .received (some s.link.rxData) }
  | nothingReceived (h : s.link.rxFull = false) : Effect s .tryReceive (s.hand (.received none))
  | flush : Effect s .flush { s with link := clearRxFull s.link, answer := .nothing }
  | cmpEvent (h : s.tick.armed = true) : Effect s .cmpEvent { s with tick := takeInterrupt s.params.wCnt s.tick }
  | arrival {b} (h : s.link.rxFull = false) : Effect s (.rxArrive b) { s with link := fillReceive b s.link }
  | overrun {b} (h : s.link.rxFull = true) : Effect s (.rxArrive b)
      { (overrunDraw s).2 with link := overrunReceive (overrunDraw s).1 s.link }
  | txDone (h : s.link.txReady = false) : Effect s .txDone { s with link := setTxReady s.link }

/-- The rows are exactly the outcomes with a next state. -/
theorem exec_eq_next_iff {i : Instr} {s t : State} : exec i s = .next t ↔ Effect s i t := by
  constructor
  · intro h
    cases i with
    | arm m =>
      rcases execArm_cases m s with ⟨r, hr, e⟩ | ⟨hr, e⟩ <;> cases e.symm.trans h
      · exact .armRefused hr
      · exact .arm hr
    | setPeriod m =>
      rcases execSetPeriod_cases m s with ⟨r, hr, e⟩ | ⟨hr, e⟩ <;> cases e.symm.trans h
      · exact .setPeriodRefused hr
      · exact .setPeriod hr
    | trySend b =>
      rcases execTrySend_cases b s with ⟨hr, e⟩ | ⟨hr, e⟩ <;> cases e.symm.trans h
      · exact .sent hr
      · exact .dropped hr
    | tryReceive =>
      rcases execTryReceive_cases s with ⟨hr, e⟩ | ⟨hr, e⟩ <;> cases e.symm.trans h
      · exact .received hr
      · exact .nothingReceived hr
    | rxArrive b =>
      rcases execRxArrive_cases b s with ⟨hr, e⟩ | ⟨hr, e⟩ <;> cases e.symm.trans h
      · exact .overrun hr
      · exact .arrival hr
    | cmpEvent => obtain ⟨ha, rfl⟩ := execCmpEvent_next h; exact .cmpEvent ha
    | txDone => obtain ⟨hr, rfl⟩ := execTxDone_next h; exact .txDone hr
    | send b => cases (exec_send s b).symm.trans h; exact .send
    | disarm => cases h; exact .disarm
    | poll => cases h; exact .poll
    | ack => cases h; exact .ack
    | classify x y => cases h; exact .classify
    | sampleDir => cases h; exact .sampleDir
    | encode d f => cases h; exact .encode
    | decode b => cases h; exact .decode
    | flush => cases h; exact .flush
  · intro e
    cases e with
    | armRefused h => rw [exec, execArm, h]
    | arm h => rw [exec, execArm, h]
    | setPeriodRefused h => rw [exec, execSetPeriod, h]
    | setPeriod h => rw [exec, execSetPeriod, h]
    | sent h => exact exec_trySend_of_ready h _
    | dropped h => exact exec_trySend_of_busy h _
    | received h => exact if_pos h
    | nothingReceived h => rw [exec, execTryReceive, h]; rfl
    | cmpEvent h => exact exec_cmpEvent_of_armed h
    | arrival h => rw [exec, execRxArrive, h]; rfl
    | overrun h => exact if_pos h
    | txDone h => rw [exec, execTxDone, h]; rfl
    | send => exact exec_send s _
    | disarm | poll | ack | classify | sampleDir | encode | decode | flush => rfl

/-! ## What each operation leaves alone -/

section
variable {i : Instr} {s t : State}

/-- The TICK unit is written by the three timer operations, `ACK` and the compare event only (R37). -/
theorem Effect.tick_eq (e : Effect s i t) (harm : ∀ m, i ≠ .arm m) (hdisarm : i ≠ .disarm)
    (hset : ∀ m, i ≠ .setPeriod m) (hack : i ≠ .ack) (hcmp : i ≠ .cmpEvent) : t.tick = s.tick := by
  cases e with
  | armRefused | arm => exact absurd rfl (harm _)
  | setPeriodRefused | setPeriod => exact absurd rfl (hset _)
  | disarm => exact absurd rfl hdisarm
  | ack => exact absurd rfl hack
  | cmpEvent => exact absurd rfl hcmp
  | _ => rfl

/-- The port, its log and the chip are written by `SEND` only (R37). -/
theorem Effect.shout_chip_eq (e : Effect s i t) (hsend : ∀ b, i ≠ .send b) : t.shout = s.shout ∧ t.chip = s.chip := by
  cases e with
  | send => exact absurd rfl (hsend _)
  | _ => exact ⟨rfl, rfl⟩

/-- The LINK unit is written by its own operations only (R37). -/
theorem Effect.link_eq (e : Effect s i t) (hsend : ∀ b, i ≠ .trySend b) (hrecv : i ≠ .tryReceive)
    (hflush : i ≠ .flush) (hrx : ∀ b, i ≠ .rxArrive b) (htx : i ≠ .txDone) : t.link = s.link := by
  cases e with
  | sent | dropped => exact absurd rfl (hsend _)
  | received | nothingReceived => exact absurd rfl hrecv
  | flush => exact absurd rfl hflush
  | arrival | overrun => exact absurd rfl (hrx _)
  | txDone => exact absurd rfl htx
  | _ => rfl

/-- Samples are drawn by `SAMPLE_DIR` only. -/
theorem Effect.adc_eq (e : Effect s i t) (hsample : i ≠ .sampleDir) : t.oracles.adc = s.oracles.adc := by
  cases e with
  | sampleDir => exact absurd rfl hsample
  | _ => rfl

/-- Overrun bytes are drawn by arrivals only. -/
theorem Effect.overrun_eq (e : Effect s i t) (hrx : ∀ b, i ≠ .rxArrive b) : t.oracles.overrun = s.oracles.overrun := by
  cases e with
  | arrival | overrun => exact absurd rfl (hrx _)
  | _ => rfl

/-- An operation is refused only as `ARM` or `SETPERIOD` with a problem in its period (R121, R261). -/
theorem Effect.refused_eq_or (e : Effect s i t) :
    t.refused = s.refused ∨ t.refused = true ∧ ∃ m r, (i = .arm m ∨ i = .setPeriod m) ∧
      periodProblem s.params.wCnt m = some r := by
  cases e with
  | armRefused h => exact .inr ⟨rfl, _, _, .inl rfl, h⟩
  | setPeriodRefused h => exact .inr ⟨rfl, _, _, .inr rfl, h⟩
  | _ => exact .inl rfl

/-- A step of the environment hands nothing to the host (log 7). -/
theorem Effect.answer_eq (e : Effect s i t) (henv : i.isEnvironment = true) : t.answer = s.answer := by
  cases e with
  | cmpEvent | arrival | overrun | txDone => rfl
  | _ => exact nomatch henv

end

/-- Settles O44: the frame of each unit, over the rows of `Effect`. -/
theorem unitsShareNoState : Obligations.UnitsShareNoState := by
  intro i s t h
  have e := exec_eq_next_iff.mp h
  obtain ⟨hhost, hparams, hstream, hpos, hpin⟩ := exec_keeps h
  refine ⟨e.tick_eq, e.shout_chip_eq, e.link_eq, e.adc_eq, e.overrun_eq, hpin, hhost, hparams, hstream, hpos, ?_,
    e.answer_eq⟩
  intro harm hset
  rcases e.refused_eq_or with heq | ⟨_, m, _, rfl | rfl, _⟩
  · exact heq
  · exact absurd rfl (harm m)
  · exact absurd rfl (hset m)

/-- Settles O45: each row of `Effect` changes only what R37 lets its operation change. -/
theorem everyFieldHasItsWriters : Obligations.EveryFieldHasItsWriters := by
  intro i s t h
  cases exec_eq_next_iff.mp h with
  | cmpEvent =>
    rcases takeInterrupt_cases s.params.wCnt s.tick with ⟨_, hi⟩ | ⟨_, hi⟩ <;> simp [hi]
  | received => cases s.params.rxReadClears <;> simp
  | nothingReceived hempty | arrival hempty => simp [hempty]
  | _ => simp

end Sys2Proof.Machine
end

section
/-! PROOFS. The TICK unit (40_tick_source.md): its operations one by one, the counters while they run, and the period
law. -/

namespace Sys2Proof.Machine

/-! ## Single operations -/

/-- Settles O13: a legal period is no problem, so `ARM` loads it. -/
theorem armLoadsAndStarts : Obligations.ArmLoadsAndStarts := by
  intro s m hm h0
  exact exec_arm_of_legal hm h0

/-- Settles O14: `DISARM` has its one row of `Effect`, after which the row of a compare event, which asks for an armed
timer, is out of reach. -/
theorem disarmStopsCompareEvents : Obligations.DisarmStopsCompareEvents := by
  intro s
  refine ⟨_, exec_eq_next_iff.mpr .disarm, rfl, ?_⟩
  intro u h
  cases exec_eq_next_iff.mp h with
  | cmpEvent harmed => exact nomatch harmed

/-- `SETPERIOD` of a legal period loads the reload register (R113). -/
theorem exec_setPeriod_of_legal {s : State} {m : Count} (hm : m.toNat < 2 ^ s.params.wCnt) (h0 : m ≠ 0) :
    exec (.setPeriod m) s = .next { s with tick := { s.tick with reload := m }, answer := .nothing } :=
  exec_eq_next_iff.mpr (.setPeriod (periodProblem_eq_none.mpr ⟨hm, h0⟩))

/-- Settles O15: a legal period is no problem, so `SETPERIOD` loads it. -/
theorem setPeriodWritesReloadOnly : Obligations.SetPeriodWritesReloadOnly := by
  intro s m hm h0
  exact exec_setPeriod_of_legal hm h0

/-- Settles O16: the problem of a zero operand is its period. -/
theorem periodZeroIsRefused : Obligations.PeriodZeroIsRefused := by
  intro s
  exact ⟨exec_eq_next_iff.mpr (.armRefused (periodProblem_zero _)),
    exec_eq_next_iff.mpr (.setPeriodRefused (periodProblem_zero _))⟩

/-- Settles O18: clearing the flag leaves every other field of the TICK unit. -/
theorem ackClearsTheFlag : Obligations.AckClearsTheFlag := by
  intro s
  exact exec_eq_next_iff.mpr .ack

/-- The decrement of R118, as an integer: it wraps at zero. -/
theorem narrow_sub_one_emod {w : Nat} (hw : w ≤ 32) (c : Count) :
    ((narrow w (c - 1)).toNat : Int) = ((c.toNat : Int) - 1) % (2 ^ w : Int) := by
  have hsub : ((c - 1).toNat : Int) = ((c.toNat : Int) - 1) % (2 ^ 32 : Int) := by bv_omega
  have hdvd : (2 ^ w : Int) ∣ 2 ^ 32 := pow_dvd_pow 2 hw
  rw [narrow_toNat hw, Int.natCast_emod, hsub, Nat.cast_pow, Nat.cast_ofNat, Int.emod_emod_of_dvd _ hdvd]

/-- Settles O19: the count that is compared with zero is the decrement modulo the width, and a disarmed timer has no row
of `Effect`. -/
theorem compareEventCountsDown : Obligations.CompareEventCountsDown := by
  intro s hw
  constructor
  · intro harmed
    exact ⟨narrow s.params.wCnt (s.tick.cnt - 1), narrow_sub_one_emod hw _, exec_cmpEvent_of_armed harmed⟩
  · intro hdisarmed t h
    cases exec_eq_next_iff.mp h with
    | cmpEvent harmed => exact absurd harmed (by simp [hdisarmed])

/-! ## The counters stay positive (R26) -/

/-- Neither counter is zero. -/
def TickUnit.Positive (t : TickUnit) : Prop := t.cnt ≠ 0 ∧ t.reload ≠ 0

/-- The interrupt stores a count that is not zero, or the period. -/
theorem TickUnit.Positive.takeInterrupt {t : TickUnit} (h : t.Positive) (w : Nat) :
    (takeInterrupt w t).Positive := by
  rcases takeInterrupt_cases w t with ⟨_, he⟩ | ⟨hne, he⟩
  · rw [he]; exact ⟨h.2, h.2⟩
  · rw [he]; exact ⟨hne, h.2⟩

/-- No operation makes a counter zero again: those that load one have checked it. -/
theorem Effect.positive {i : Instr} {s t : State} (e : Effect s i t) (h : s.tick.Positive) : t.tick.Positive := by
  cases e with
  | arm hm => exact ⟨(periodProblem_eq_none.mp hm).2, (periodProblem_eq_none.mp hm).2⟩
  | setPeriod hm => exact ⟨h.1, (periodProblem_eq_none.mp hm).2⟩
  | cmpEvent => exact h.takeInterrupt _
  | _ => exact h

/-- Settles O20: an `ARM` that answers nothing is the row that loads a checked period, and every row keeps the counters
positive. -/
theorem countersStayPositiveOnceArmed : Obligations.CountersStayPositiveOnceArmed := by
  constructor
  · intro s t m h hanswer
    cases exec_eq_next_iff.mp h with
    | armRefused => exact nomatch hanswer
    | arm hm => exact ⟨(periodProblem_eq_none.mp hm).2, (periodProblem_eq_none.mp hm).2⟩
  · intro i s t hcnt hreload h
    exact (exec_eq_next_iff.mp h).positive ⟨hcnt, hreload⟩

/-! ## The period law (R119) -/

/-- `k` events into a row of periods of length `m`: the period to reload, and what is left of the one in progress. -/
def TickUnit.InPeriod (m : Count) (k : Nat) (t : TickUnit) : Prop :=
  t.reload = m ∧ t.cnt.toNat = m.toNat - k % m.toNat

section
variable {w : Nat} {m : Count} (hw : w ≤ 32) (hm : m.toNat < 2 ^ w) (h0 : m ≠ 0) {k : Nat} {t : TickUnit}
include hw hm h0

/-- One event later: the last of a period sets the flag and reloads, any other leaves the flag. -/
theorem inPeriod_takeInterrupt (h : t.InPeriod m k) :
    (takeInterrupt w t).InPeriod m (k + 1) ∧
      (takeInterrupt w t).tickPending = (t.tickPending || decide ((k + 1) % m.toNat = 0)) := by
  obtain ⟨hreload, hcnt⟩ := h
  have hlt : k % m.toNat < m.toNat := Nat.mod_lt k (by bv_omega)
  have hsucc : (k + 1) % m.toNat = (k % m.toNat + 1) % m.toNat := (Nat.mod_add_mod k m.toNat 1).symm
  rw [TickUnit.InPeriod, hsucc]
  generalize k % m.toNat = r at hcnt hlt
  rcases Nat.lt_or_eq_of_le (show 1 ≤ t.cnt.toNat by omega) with hmore | hlast
  · rw [Nat.mod_eq_of_lt (by omega), takeInterrupt_of_one_lt hw (by omega) hmore]
    exact ⟨⟨hreload, by bv_omega⟩, by simp⟩
  · rw [show r + 1 = m.toNat by omega, Nat.mod_self, takeInterrupt_of_eq_one hw (by omega) hlast.symm]
    exact ⟨⟨hreload, by simp [hreload]⟩, by simp⟩

/-- Any number of events from the start of a period. -/
theorem inPeriod_iterate_takeInterrupt (h : t.InPeriod m 0) (k : Nat) : ((takeInterrupt w)^[k] t).InPeriod m k := by
  induction k with
  | zero => exact h
  | succ k ih =>
    rw [Function.iterate_succ_apply']
    exact (inPeriod_takeInterrupt hw hm h0 ih).1

end

/-- The TICK unit after `ARM M` and some compare events. -/
theorem runOps_arm_replicate_cmpEvent {s : State} {m : Count} (hm : m.toNat < 2 ^ s.params.wCnt) (h0 : m ≠ 0) (k : Nat) :
    runOps (.arm m :: List.replicate k .cmpEvent) s = .next { s with
      tick := (takeInterrupt s.params.wCnt)^[k] { s.tick with reload := m, cnt := m, armed := true }
      answer := .nothing } := by
  rw [runOps_cons_of_next (exec_arm_of_legal hm h0), runOps_replicate_cmpEvent rfl]

theorem iterate_takeInterrupt_armed (w k : Nat) (t : TickUnit) : ((takeInterrupt w)^[k] t).armed = t.armed := by
  induction k generalizing t with
  | zero => rfl
  | succ k ih => rw [Function.iterate_succ_apply, ih, takeInterrupt_armed]

/-- Settles O22: `ARM M` starts a period, `k` events later the unit is `k` events into a row of periods, and clearing
the flag changes nothing of that. -/
theorem periodLawAfterArm : Obligations.PeriodLawAfterArm := by
  intro s m k hw hm h0
  have hperiod := inPeriod_iterate_takeInterrupt hw hm h0
    (t := { s.tick with reload := m, cnt := m, armed := true }) ⟨rfl, by simp⟩ k
  have hnext := inPeriod_takeInterrupt hw hm h0
    (t := { (takeInterrupt s.params.wCnt)^[k] { s.tick with reload := m, cnt := m, armed := true } with
      tickPending := false }) hperiod
  exact ⟨_, _, runOps_arm_replicate_cmpEvent hm h0 k, hperiod.2,
    exec_cmpEvent_of_armed (iterate_takeInterrupt_armed _ _ _), hnext.2.trans (Bool.false_or _)⟩

/-! ## A new period, and ticks that are not acknowledged (R120, R122) -/

/-- Settles O23: `SETPERIOD` leaves the count in progress, which runs out as it would have, and the reload takes the new
period. -/
theorem newPeriodStartsAtTheReload : Obligations.NewPeriodStartsAtTheReload := by
  intro s m k hw hm h0 harmed hcnt hfits hp hk
  have hrun := runOps_cons_of_next (exec_setPeriod_of_legal hm h0) (List.replicate k .cmpEvent)
  rw [runOps_replicate_cmpEvent (by exact harmed)] at hrun
  refine ⟨_, hrun, iterate_takeInterrupt_tickPending (t := { s.tick with reload := m }) hw hfits hcnt hp hk, ?_⟩
  dsimp only
  rcases Nat.lt_or_eq_of_le hk with hlt | rfl
  · rw [iterate_takeInterrupt_of_lt (t := { s.tick with reload := m }) hw hfits hlt, if_neg hlt.ne]
    bv_omega
  · rw [iterate_takeInterrupt_cnt (t := { s.tick with reload := m }) hw hfits hcnt, if_pos rfl]

/-- A run of two rows of operations is the second from where the first ends. -/
theorem runOps_append_of_next {first : List Instr} {s t : State} (h : runOps first s = .next t) (rest : List Instr) :
    runOps (first ++ rest) s = runOps rest t := by
  induction first generalizing s with
  | nil => cases h; rfl
  | cons i first ih =>
    rw [runOps] at h
    split at h
    · rename_i u hu
      rw [List.cons_append, runOps_cons_of_next hu, ih h]
    · cases h
    · cases h

/-- Settles O24: `ACK` clears the flag however often it was set; with the count at one, a reload before it is cleared
with the rest, one after it stays. -/
theorem ticksAreNotQueued : Obligations.TicksAreNotQueued := by
  constructor
  · intro s n harmed
    exact ⟨_, runOps_append_of_next (runOps_replicate_cmpEvent harmed n) [.ack], rfl⟩
  · intro s hpos hw harmed hcnt
    have hone : s.tick.cnt.toNat = 1 := by rw [hcnt]; rfl
    have hfits : s.tick.cnt.toNat < 2 ^ s.params.wCnt := hone ▸ Nat.one_lt_two_pow (by omega)
    have hpoll : exec .poll s = .next (s.hand (.poll s.tick.tickPending)) := exec_eq_next_iff.mpr .poll
    have hlost := runOps_cons_of_next hpoll [.cmpEvent, .ack]
    rw [runOps_cons_of_next (exec_cmpEvent_of_armed (by exact harmed)),
      runOps_cons_of_next (exec_eq_next_iff.mpr .ack), runOps] at hlost
    have hkept := runOps_cons_of_next hpoll [.ack, .cmpEvent]
    rw [runOps_cons_of_next (exec_eq_next_iff.mpr .ack),
      runOps_cons_of_next (exec_cmpEvent_of_armed (by exact harmed)), runOps] at hkept
    exact ⟨_, _, hlost, rfl, hkept,
      congrArg TickUnit.tickPending (takeInterrupt_of_eq_one (t := clearTickPending s.tick) hw hfits hone)⟩

end Sys2Proof.Machine
end

section
/-! PROOFS. The steps of a node (10_state.md section 8, 60_exceptions.md section 1): which operations and turns complete,
what a step can do to the block, and the statements settled from that. -/

namespace Sys2Proof.Machine

/-! ## What completes (R260) -/

/-- Every host operation has a row of `Effect`. -/
theorem exists_exec_of_host {i : Instr} (h : i.isEnvironment = false) (s : State) : ∃ t, exec i s = .next t := by
  cases i with
  | arm m => rcases execArm_cases m s with ⟨_, _, e⟩ | ⟨_, e⟩ <;> exact ⟨_, e⟩
  | setPeriod m => rcases execSetPeriod_cases m s with ⟨_, _, e⟩ | ⟨_, e⟩ <;> exact ⟨_, e⟩
  | trySend b => rcases execTrySend_cases b s with ⟨_, e⟩ | ⟨_, e⟩ <;> exact ⟨_, e⟩
  | tryReceive => rcases execTryReceive_cases s with ⟨_, e⟩ | ⟨_, e⟩ <;> exact ⟨_, e⟩
  | send b => exact ⟨_, exec_send s b⟩
  | disarm | poll | ack | classify | sampleDir | encode | decode | flush => exact ⟨_, rfl⟩
  | cmpEvent | rxArrive | txDone => exact nomatch h

/-- An arrival is never turned away (R205). -/
theorem exists_exec_rxArrive (b : Byte) (s : State) : ∃ t, exec (.rxArrive b) s = .next t := by
  rcases execRxArrive_cases b s with ⟨_, e⟩ | ⟨_, e⟩ <;> exact ⟨_, e⟩

/-- Settles O46: the rows of the two other environment steps ask for the enabling condition, and nothing more. -/
theorem everyEnabledStepCompletes : Obligations.EveryEnabledStepCompletes := by
  refine ⟨fun i s h => exists_exec_of_host h s, exists_exec_rxArrive, fun s => ⟨?_, ?_⟩, fun s => ⟨?_, ?_⟩⟩
  · rintro ⟨t, h⟩
    exact (execCmpEvent_next h).1
  · exact fun h => ⟨_, exec_eq_next_iff.mpr (.cmpEvent h)⟩
  · rintro ⟨t, h⟩
    exact (execTxDone_next h).1
  · exact fun h => ⟨_, exec_eq_next_iff.mpr (.txDone h)⟩

/-- The host issues host operations only (R9). -/
theorem hostIssue_isHost {p : Params} {h : HostAgent} {i : Instr} (hi : hostIssue p h = some i) :
    i.isEnvironment = false := by
  unfold hostIssue at hi
  split at hi <;> cases hi <;> rfl

/-- A turn of the host agent always has a next state. -/
theorem exists_hostTurn (s : State) : ∃ t, hostTurn s = .next t := by
  unfold hostTurn
  split
  · exact ⟨_, rfl⟩
  · rename_i i hi
    obtain ⟨u, hu⟩ := exists_exec_of_host (hostIssue_isHost hi) s
    exact ⟨_, by rw [hu]⟩

/-! ## What a step does to the block -/

/-- A turn in which the host computes draws at most a pin level. -/
theorem hostCompute_eq (s : State) :
    ∃ h pin, hostCompute s = { s with host := h, oracles := { s.oracles with pin := pin } } := by
  unfold hostCompute
  split
  · exact ⟨_, s.oracles.pin, rfl⟩
  · exact ⟨_, _, rfl⟩
  · exact ⟨s.host, s.oracles.pin, rfl⟩

/-- A turn of the host agent is a host operation on the block or a draw of the pin, and an update of the host. -/
theorem hostTurn_block {s t : State} (h : hostTurn s = .next t) :
    ∃ u g, t = { u with host := g } ∧
      ((∃ i, i.isEnvironment = false ∧ hostIssue s.params s.host = some i ∧ Effect s i u) ∨
        ∃ pin, u = { s with oracles := { s.oracles with pin := pin } }) := by
  rcases hostTurn_next h with ⟨i, u, hi, hu, rfl⟩ | ⟨_, rfl⟩
  · exact ⟨u, _, rfl, .inl ⟨i, hostIssue_isHost hi, hi, exec_eq_next_iff.mp hu⟩⟩
  · obtain ⟨g, pin, hc⟩ := hostCompute_eq s
    exact ⟨_, g, hc, .inr ⟨pin, rfl⟩⟩

/-- A step is an operation on the block, a draw of the pin, or a refusal, and an update of the host. -/
theorem step_block {s t : State} (h : step s = .next t) :
    ∃ u g, t = { u with host := g } ∧
      ((∃ i, Effect s.advance i u) ∨ (∃ pin, u = { s.advance with oracles := { s.oracles with pin := pin } }) ∨
        u = s.advance.refuse .illegalWord) := by
  rcases step_next h with ⟨_, ht⟩ | ⟨_, _, _, _, rfl⟩ | ⟨_, i, _, _, he⟩
  · obtain ⟨u, g, rfl, ⟨i, _, _, e⟩ | ⟨pin, rfl⟩⟩ := hostTurn_block ht
    · exact ⟨u, g, rfl, .inl ⟨i, e⟩⟩
    · exact ⟨_, g, rfl, .inr (.inl ⟨pin, rfl⟩)⟩
  · exact ⟨_, s.host, rfl, .inr (.inr rfl)⟩
  · exact ⟨t, t.host, rfl, .inl ⟨i, exec_eq_next_iff.mp he⟩⟩

/-! ## One step of the stream -/

/-- Settles O5: the slot read is the word, and the state the operation runs from is past it. -/
theorem stepRunsDecodedInstruction : Obligations.StepRunsDecodedInstruction := by
  intro s w i hslot hdecode
  simp only [step, State.slot, hslot, takeSlot, advance_params, hdecode]
  rfl

/-- Settles O6: a word without an operation is refused past its place. -/
theorem illegalWordIsRefused : Obligations.IllegalWordIsRefused := by
  intro s w e hslot hdecode
  simp only [step, State.slot, hslot, takeSlot, advance_params, hdecode]
  rfl

/-- An operation never stops as an exhausted stream does. -/
theorem exec_ne_streamExhausted (i : Instr) (s : State) : exec i s ≠ .fault .streamExhausted := by
  cases hi : i.isEnvironment with
  | false =>
    obtain ⟨t, ht⟩ := exists_exec_of_host hi s
    simp [ht]
  | true =>
    cases i with
    | cmpEvent => rw [exec, execCmpEvent]; split <;> simp
    | txDone => rw [exec, execTxDone]; split <;> simp
    | rxArrive b =>
      obtain ⟨t, ht⟩ := exists_exec_rxArrive b s
      simp [ht]
    | _ => exact nomatch hi

/-- A place of the stream never stops as an exhausted stream does. -/
theorem takeSlot_ne_streamExhausted (x : Slot) (s : State) : takeSlot x s ≠ .fault .streamExhausted := by
  cases x with
  | hostTurn =>
    obtain ⟨t, ht⟩ := exists_hostTurn s
    simp [takeSlot, ht]
  | word w =>
    rw [takeSlot]
    split
    · simp
    · exact exec_ne_streamExhausted _ _

/-- Settles O7: past the end there is no slot, and no slot stops that way. -/
theorem runEndsExactlyWithTheStream : Obligations.RunEndsExactlyWithTheStream := by
  intro s
  rw [← List.getElem?_eq_none_iff]
  constructor
  · intro h
    unfold step at h
    split at h
    · assumption
    · exact absurd h (takeSlot_ne_streamExhausted _ _)
  · intro h
    rw [step, State.slot, h]

/-- Settles O8: past the advance of the position, neither an operation nor a turn touches stream, parameters or
position. -/
theorem streamAndParametersNeverChange : Obligations.StreamAndParametersNeverChange := by
  intro s t h
  obtain ⟨u, g, rfl, ⟨i, e⟩ | ⟨pin, rfl⟩ | rfl⟩ := step_block h
  · obtain ⟨_, hparams, hstream, hpos, _⟩ := exec_keeps (exec_eq_next_iff.mpr e)
    exact ⟨hstream, hparams, hpos⟩
  · exact ⟨rfl, rfl, rfl⟩
  · exact ⟨rfl, rfl, rfl⟩

/-- No operation clears `RXOVR` (R36). -/
theorem Effect.rxOvr {i : Instr} {s t : State} (e : Effect s i t) (h : s.link.rxOvr = true) : t.link.rxOvr = true := by
  cases e with
  | received => split <;> exact h
  | overrun => rfl
  | _ => exact h

/-- No operation clears `REFUSED` (R41). -/
theorem Effect.refused {i : Instr} {s t : State} (e : Effect s i t) (h : s.refused = true) : t.refused = true := by
  rcases e.refused_eq_or with heq | ⟨hset, _⟩
  · exact heq.trans h
  · exact hset

/-- Settles O9: no operation clears either mark, and the rest of a step touches neither or sets `REFUSED`. -/
theorem refusedAndOverrunAreSticky : Obligations.RefusedAndOverrunAreSticky := by
  intro s t h
  obtain ⟨u, g, rfl, ⟨i, e⟩ | ⟨pin, rfl⟩ | rfl⟩ := step_block h
  · exact ⟨e.refused, e.rxOvr⟩
  · exact ⟨id, id⟩
  · exact ⟨fun _ => rfl, id⟩

/-! ## The host is never refused (R293, R308) -/

/-- The one period the host arms is legal where its parameters are, so none of its operations is refused. -/
theorem periodProblem_of_hostIssue {p : Params} {h : HostAgent} (hp : p.Legal) {m : Count}
    (hi : hostIssue p h = some (.arm m) ∨ hostIssue p h = some (.setPeriod m)) : periodProblem p.wCnt m = none := by
  have harm : m = p.armPeriod := by
    unfold hostIssue at hi
    split at hi <;> simp_all
  rw [harm, periodProblem_eq_none]
  exact ⟨of_decide_eq_true hp.bootFits, hp.bootPos⟩

/-- Settles O49: the host issues no environment step, every host operation completes, and what the host arms is legal. -/
theorem hostTurnsNeverStop : Obligations.HostTurnsNeverStop := by
  refine ⟨fun p h i hi => hostIssue_isHost hi, exists_hostTurn, ?_⟩
  intro s t hlegal h
  obtain ⟨u, g, rfl, ⟨i, _, hissue, e⟩ | ⟨pin, rfl⟩⟩ := hostTurn_block h
  · rcases e.refused_eq_or with heq | ⟨_, m, r, hi, hproblem⟩
    · exact heq
    · have hnone := periodProblem_of_hostIssue hlegal (hi.imp (· ▸ hissue) (· ▸ hissue))
      exact nomatch hproblem.symm.trans hnone
  · rfl

end Sys2Proof.Machine
end

section
/-! PROOFS. The moves of the pattern (44_host_scheduler_fsm.md section 3), and the invariant of a node: one predicate per
unit and one for the host, kept by every operation and every turn. -/

namespace Sys2Proof.Machine

/-! ## The moves of the pattern (R243) -/

/-- A pattern of one bit keeps one bit: the moves shift it, or leave it at the end it has reached. -/
theorem singleBit_applyMove (m : PatternMove) {pat : Byte} (h : singleBit pat = true) :
    singleBit (applyMove m pat) = true := by
  cases m with
  | keep => exact h
  | left => revert pat; decide
  | right => revert pat; decide

theorem singleBit_foldl_applyMove (moves : List PatternMove) {pat : Byte} (h : singleBit pat = true) :
    singleBit (moves.foldl (fun q m => applyMove m q) pat) = true := by
  induction moves generalizing pat with
  | nil => exact h
  | cons m rest ih => exact ih (singleBit_applyMove m h)

theorem ne_zero_of_singleBit {pat : Byte} (h : singleBit pat = true) : pat ≠ 0x00 := by
  rintro rfl
  exact nomatch h

/-- A move that leaves a pattern as it is leaves it so any number of times. -/
theorem foldl_replicate_applyMove_of_fixed {m : PatternMove} {pat : Byte} (h : applyMove m pat = pat) (n : Nat) :
    (List.replicate n m).foldl (fun q m => applyMove m q) pat = pat := by
  induction n with
  | zero => rfl
  | succ n ih => rw [List.replicate_succ, List.foldl_cons, h, ih]

/-- From any of the eight one-bit patterns, seven right moves reach the top. -/
theorem foldl_replicate_seven_right {pat : Byte} (h : singleBit pat = true) :
    (List.replicate 7 PatternMove.right).foldl (fun q m => applyMove m q) pat = 0x80 := by
  revert pat
  decide

/-- Settles O56: the two moves are their definitions, one bit stays one bit, and both ends are fixed points. -/
theorem patternMovesSaturate : Obligations.PatternMovesSaturate := by
  refine ⟨fun _ => rfl, fun _ => rfl, ?_, foldl_replicate_applyMove_of_fixed rfl, ?_⟩
  · intro moves pat h
    have hbit := singleBit_foldl_applyMove moves h
    exact ⟨hbit, ne_zero_of_singleBit hbit⟩
  · intro n pat h hn
    rw [← Nat.add_sub_cancel' hn, List.replicate_add, List.foldl_append, foldl_replicate_seven_right h,
      foldl_replicate_applyMove_of_fixed rfl]

/-! ## The invariant, unit by unit -/

/-- What the invariant says of the TICK unit (R23, R24, R26). -/
structure TickOk (w : Nat) (t : TickUnit) : Prop where
  cntFits : fitsWidth w t.cnt = true
  reloadFits : fitsWidth w t.reload = true
  counting : t.armed = true → t.Positive

/-- What it says of the SHOUT unit (R27, R141). -/
structure ShoutOk (u : ShoutUnit) : Prop where
  idle : u.port = 0x00
  wholeSends : u.portLog.length % 26 = 0

/-- What it says of the LINK unit (R32, R35). -/
def LinkOk (l : LinkUnit) : Prop := l.txReady = false → l.txLog.getLast? = some l.txData

/-- A task as it was registered (R232). -/
def Task.spec (t : Task) : TaskSpec := ⟨t.periodTicks, t.action⟩

/-- What it says of the host's tasks (R231, R232). -/
structure TasksOk (p : Params) (tasks : List Task) : Prop where
  widths : ∀ t ∈ tasks, fitsWidth p.wElapsed t.elapsed = true ∧ fitsWidth p.wElapsed t.periodTicks = true
  registered : tasks.map Task.spec = p.tasks

/-- What it says of the host (R232, R243). -/
structure HostOk (p : Params) (h : HostAgent) : Prop where
  tasks : TasksOk p h.tasks
  onePattern : singleBit h.pat = true

theorem invariant_iff {s : State} :
    Invariant s ↔ s.params.Legal ∧ TickOk s.params.wCnt s.tick ∧ ShoutOk s.shout ∧ LinkOk s.link ∧
      HostOk s.params s.host := by
  constructor
  · intro h
    exact ⟨h.legal, ⟨h.cntFits, h.reloadFits, h.counting⟩, ⟨h.idle, h.wholeSends⟩, h.inFlight,
      ⟨h.taskWidths, h.registered⟩, h.onePattern⟩
  · rintro ⟨hlegal, htick, hshout, hlink, hhost⟩
    exact ⟨hlegal, htick.cntFits, htick.reloadFits, htick.counting, hshout.idle, hshout.wholeSends, hlink,
      hhost.tasks.widths, hhost.tasks.registered, hhost.onePattern⟩

/-- The invariant speaks of the units, the host and the parameters only. -/
theorem Invariant.of_eq {s t : State} (h : Invariant s) (hparams : t.params = s.params) (htick : t.tick = s.tick)
    (hshout : t.shout = s.shout) (hlink : t.link = s.link) (hhost : t.host = s.host) : Invariant t := by
  rw [invariant_iff, hparams, htick, hshout, hlink, hhost]
  exact invariant_iff.mp h

/-! ## Power-on -/

/-- The default parameters are legal (00_scope.md R10). -/
theorem legal_default : Config.default.Legal := by
  constructor
  case follows => rintro (_ | _ | _ | _) <;> decide
  all_goals decide

/-- Settles O11: a disarmed timer, idle lines and a ready transmitter ask nothing more, and the host's tasks are those
the parameters register, with nothing elapsed. -/
theorem powerOnMeetsTheInvariant : Obligations.PowerOnMeetsTheInvariant := by
  have hall : ∀ (p : Params) (u : PowerOnValues), p.Legal → fitsWidth p.wCnt u.cnt = true →
      fitsWidth p.wCnt u.reload = true → Invariant (State.powerOn p u) := by
    intro p u hlegal hcnt hreload
    refine invariant_iff.mpr ⟨hlegal, ⟨hcnt, hreload, nofun⟩, ⟨rfl, rfl⟩, nofun, ⟨?_, ?_⟩, hlegal.pattern⟩
    · intro t ht
      obtain ⟨r, hr, rfl⟩ := List.mem_map.mp ht
      exact ⟨by simp [fitsWidth], hlegal.periods r hr⟩
    · simp [State.powerOn, Task.spec, Function.comp_def]
  exact ⟨hall, hall _ _ legal_default (by decide) (by decide)⟩

/-! ## Every operation -/

theorem fitsWidth_iff {w : Nat} {v : Count} : fitsWidth w v = true ↔ v.toNat < 2 ^ w := decide_eq_true_iff

theorem fitsWidth_narrow {w : Nat} (hw : w ≤ 32) (v : Count) : fitsWidth w (narrow w v) = true := by
  rw [fitsWidth_iff, narrow_toNat hw]
  exact Nat.mod_lt _ (Nat.two_pow_pos w)

/-- The interrupt stores the period or a narrowed count, and of an armed timer neither is zero. -/
theorem TickOk.takeInterrupt {w : Nat} (hw : w ≤ 32) {t : TickUnit} (h : TickOk w t) :
    TickOk w (takeInterrupt w t) := by
  have hpos : (Machine.takeInterrupt w t).armed = true → (Machine.takeInterrupt w t).Positive := by
    intro harmed
    rw [takeInterrupt_armed] at harmed
    exact (h.counting harmed).takeInterrupt w
  rcases takeInterrupt_cases w t with ⟨_, he⟩ | ⟨_, he⟩
  · rw [he] at hpos ⊢
    exact ⟨h.reloadFits, h.reloadFits, hpos⟩
  · rw [he] at hpos ⊢
    exact ⟨fitsWidth_narrow hw _, h.reloadFits, hpos⟩

section
variable {i : Instr} {s t : State} (e : Effect s i t)
include e

/-- An operation that loads a counter has checked its operand. -/
theorem Effect.tickOk (hw : s.params.wCnt ≤ 32) (h : TickOk s.params.wCnt s.tick) : TickOk s.params.wCnt t.tick := by
  cases e with
  | arm hm =>
    obtain ⟨hfits, h0⟩ := periodProblem_eq_none.mp hm
    exact ⟨fitsWidth_iff.mpr hfits, fitsWidth_iff.mpr hfits, fun _ => ⟨h0, h0⟩⟩
  | setPeriod hm =>
    obtain ⟨hfits, h0⟩ := periodProblem_eq_none.mp hm
    exact ⟨h.cntFits, fitsWidth_iff.mpr hfits, fun harmed => ⟨(h.counting harmed).1, h0⟩⟩
  | disarm => exact ⟨h.cntFits, h.reloadFits, nofun⟩
  | ack => exact ⟨h.cntFits, h.reloadFits, h.counting⟩
  | cmpEvent => exact h.takeInterrupt hw
  | _ => exact h

/-- A `SEND` leaves the lines low and adds 26 writes to the log. -/
theorem Effect.shoutOk (h : ShoutOk s.shout) : ShoutOk t.shout := by
  cases e with
  | send => exact ⟨rfl, by simp [sendMasks_length, h.wholeSends]⟩
  | _ => exact h

/-- A transmission logs the byte it takes; a completion leaves the transmitter ready. -/
theorem Effect.linkOk (h : LinkOk s.link) : LinkOk t.link := by
  cases e with
  | sent => exact fun _ => by simp
  | received => split <;> exact h
  | txDone => exact nofun
  | _ => exact h

/-- Every operation keeps the invariant. -/
theorem Effect.invariant (h : Invariant s) : Invariant t := by
  obtain ⟨hlegal, htick, hshout, hlink, hhost⟩ := invariant_iff.mp h
  obtain ⟨hsame, hparams, _⟩ := exec_keeps (exec_eq_next_iff.mpr e)
  rw [invariant_iff, hparams, hsame]
  exact ⟨hlegal, e.tickOk hlegal.width.2 htick, e.shoutOk hshout, e.linkOk hlink, hhost⟩

end

/-! ## Every turn of the host agent -/

section
variable {p : Params} {h : HostAgent}

/-- A change of one task that keeps its registration and its width keeps the tasks. -/
theorem TasksOk.modify {tasks : List Task} (ht : TasksOk p tasks) (k : Nat) {f : Task → Task}
    (hspec : ∀ t, (f t).spec = t.spec) (hwidth : ∀ t, fitsWidth p.wElapsed (f t).elapsed = true) :
    TasksOk p (tasks.modify k f) := by
  constructor
  · intro t hmem
    obtain ⟨j, hj, rfl⟩ := List.mem_iff_getElem.mp hmem
    rw [List.length_modify] at hj
    obtain ⟨helapsed, hperiod⟩ := ht.widths _ (List.getElem_mem hj)
    rw [List.getElem_modify]
    split
    · have hsame : (f tasks[j]).periodTicks = tasks[j].periodTicks := congrArg TaskSpec.periodTicks (hspec tasks[j])
      exact ⟨hwidth _, by rwa [hsame]⟩
    · exact ⟨helapsed, hperiod⟩
  · rw [← ht.registered]
    apply List.ext_getElem?
    intro j
    rw [List.getElem?_map, List.getElem?_map, List.getElem?_modify]
    split <;> simp [hspec, Function.comp_def]

theorem HostOk.of_eq {g : HostAgent} (hh : HostOk p h) (htasks : g.tasks = h.tasks) (hpat : g.pat = h.pat) :
    HostOk p g :=
  ⟨htasks ▸ hh.tasks, hpat ▸ hh.onePattern⟩

/-- The end of an action restarts one task (R234). -/
theorem HostOk.endAction (hh : HostOk p h) (k : Nat) : HostOk p (endAction k h) :=
  ⟨hh.tasks.modify k (fun _ => rfl) (fun _ => by simp [restart, fitsWidth]), hh.onePattern⟩

/-- A tick of the Direction FSM moves the pattern (R243). -/
theorem HostOk.directionAction (hh : HostOk p h) (k : Nat) : HostOk p (directionAction p k h) :=
  ⟨hh.tasks, singleBit_applyMove _ hh.onePattern⟩

/-- Past an operation it issued, the host goes to another place of its loop and perhaps takes an input, or it ends an
action, or it ticks the Direction FSM. -/
theorem hostAbsorb_cases (p : Params) (a : Answer) (h : HostAgent) :
    (∃ pc d, hostAbsorb p a h = { h with pc := pc, lastIn := d }) ∨
    (∃ k, hostAbsorb p a h = endAction k h) ∨
    ∃ k d, hostAbsorb p a h = directionAction p k { h with lastIn := d } := by
  unfold hostAbsorb
  cases h.pc with
  | boot | flush | ack => exact .inl ⟨_, _, rfl⟩
  | task | readPin => exact .inl ⟨h.pc, h.lastIn, rfl⟩
  | service | unpack => dsimp only; split <;> exact .inl ⟨_, _, rfl⟩
  | poll | sampleStick | pack =>
    dsimp only
    split
    · exact .inl ⟨_, _, rfl⟩
    · exact .inl ⟨h.pc, h.lastIn, rfl⟩
  | transmit k | display k => exact .inr (.inl ⟨k, rfl⟩)
  | sampleDisplay k =>
    dsimp only
    split
    · exact .inr (.inr ⟨k, _, rfl⟩)
    · exact .inl ⟨h.pc, h.lastIn, rfl⟩

theorem HostOk.hostAbsorb (hh : HostOk p h) (a : Answer) : HostOk p (hostAbsorb p a h) := by
  rcases hostAbsorb_cases p a h with ⟨pc, d, he⟩ | ⟨k, he⟩ | ⟨k, d, he⟩ <;> rw [he]
  · exact hh.of_eq rfl rfl
  · exact hh.endAction k
  · exact .directionAction (by exact hh.of_eq rfl rfl) k

/-- The start of an action goes to its first operation, or is already its end. -/
theorem HostOk.startAction (hh : HostOk p h) (k : Nat) (action : TaskAction) : HostOk p (startAction p k action h) := by
  unfold Machine.startAction
  cases action with
  | stickLink =>
    dsimp only
    split
    · exact hh.of_eq rfl rfl
    · exact .endAction (by exact hh.of_eq rfl rfl) k
  | direction =>
    dsimp only
    split
    · exact hh.directionAction k
    · exact hh.directionAction k
    · exact hh.of_eq rfl rfl
  | other => exact hh.endAction k

/-- A task's share of a tick adds the increment, narrowed, and perhaps starts the action (R234). -/
theorem HostOk.taskTurn (hw : p.wElapsed ≤ 32) (hh : HostOk p h) (k : Nat) : HostOk p (taskTurn p k h) := by
  unfold Machine.taskTurn
  split
  · exact hh.of_eq rfl rfl
  · rename_i t hk
    have hset : h.tasks.set k (accumulate p.wElapsed p.tickInc t) = h.tasks.modify k (accumulate p.wElapsed p.tickInc) := by
      rw [List.modify_eq_set_getElem?, hk]
      rfl
    have hadded : HostOk p { h with tasks := h.tasks.set k (accumulate p.wElapsed p.tickInc t) } :=
      ⟨hset ▸ hh.tasks.modify k (fun _ => rfl) (fun _ => fitsWidth_narrow hw _), hh.onePattern⟩
    dsimp only
    split
    · exact hadded.startAction k t.action
    · exact hadded.of_eq rfl rfl

end

/-- Both kinds of turn keep the invariant. -/
theorem hostTurn_invariant {s t : State} (hs : Invariant s) (h : hostTurn s = .next t) : Invariant t := by
  rcases hostTurn_next h with ⟨i, u, _, hu, rfl⟩ | ⟨_, rfl⟩
  · obtain ⟨hlegal, htick, hshout, hlink, hhost⟩ := invariant_iff.mp ((exec_eq_next_iff.mp hu).invariant hs)
    exact invariant_iff.mpr ⟨hlegal, htick, hshout, hlink, hhost.hostAbsorb _⟩
  · obtain ⟨hlegal, htick, hshout, hlink, hhost⟩ := invariant_iff.mp hs
    unfold hostCompute
    split
    · exact invariant_iff.mpr ⟨hlegal, htick, hshout, hlink, hhost.taskTurn hlegal.elapsed.2 _⟩
    · exact invariant_iff.mpr ⟨hlegal, htick, hshout, hlink, hhost.of_eq rfl rfl⟩
    · exact hs

/-- Settles O12: the position and the mark of a refusal are outside the invariant, and every operation and every turn
keeps it. -/
theorem stepKeepsTheInvariant : Obligations.StepKeepsTheInvariant := by
  intro s t hs h
  have hadvance : Invariant s.advance := hs.of_eq rfl rfl rfl rfl rfl
  rcases step_next h with ⟨_, ht⟩ | ⟨_, _, _, _, rfl⟩ | ⟨_, i, _, _, he⟩
  · exact hostTurn_invariant hadvance ht
  · exact hadvance.of_eq rfl rfl rfl rfl rfl
  · exact (exec_eq_next_iff.mp he).invariant hadvance

end Sys2Proof.Machine
end

section
/-! PROOFS. The SHOUT unit and the downstream chip (41_shift_out.md): the lines of a port mask, the chip's reaction to the
writes of one bit and of a whole `SEND`, and the edges these writes have. -/

namespace Sys2Proof.Machine

/-! ## The lines of a mask (R84, R147) -/

section
variable {p : Params} (hp : p.Legal) (ser srclk rclk clr : Bool)
include hp

theorem portMask_posSer : (portMask p ser srclk rclk clr).getLsbD p.posSer = ser := by
  rw [portMask_getLsbD]
  simp [Fin.val_inj, hp.serSrclk, hp.serRclk, hp.serClr]

theorem portMask_posSrclk : (portMask p ser srclk rclk clr).getLsbD p.posSrclk = srclk := by
  rw [portMask_getLsbD]
  simp [Fin.val_inj, hp.serSrclk.symm, hp.srclkRclk, hp.srclkClr]

theorem portMask_posRclk : (portMask p ser srclk rclk clr).getLsbD p.posRclk = rclk := by
  rw [portMask_getLsbD]
  simp [Fin.val_inj, hp.serRclk.symm, hp.srclkRclk.symm, hp.rclkClr]

theorem portMask_posClr : (portMask p ser srclk rclk clr).getLsbD p.posClr = (p.hasClr && clr) := by
  rw [portMask_getLsbD]
  simp [Fin.val_inj, hp.serClr.symm, hp.srclkClr.symm, hp.rclkClr.symm]

end

/-- Settles O25: the four lines have four positions, and a bit that is none of them is in no line. -/
theorem portMaskCarriesTheLines : Obligations.PortMaskCarriesTheLines := by
  refine ⟨by decide, fun p ser srclk rclk clr hp => ⟨portMask_posSer hp .., portMask_posSrclk hp ..,
    portMask_posRclk hp .., portMask_posClr hp .., ?_⟩⟩
  intro k hser hsrclk hrclk hclr
  rw [portMask_getLsbD]
  simp [Fin.val_inj, hser, hsrclk, hrclk, hclr]

/-- Settles O26: the last mask is all low, and the writes log themselves and move the chip one by one. -/
theorem sendMakesTheTwentySixWrites : Obligations.SendMakesTheTwentySixWrites := by
  intro s pattern
  exact ⟨sendMasks s.params pattern, rfl, sendMasks_length _ _, exec_send s pattern⟩

/-! ## The chip's reaction to one write (R152) -/

/-- The chain with a bit shifted into stage 0. -/
def shiftIn (sr : Byte) (b : Bool) : Byte := (sr <<< 1) ||| (BitVec.ofBool b).setWidth 8

@[simp] theorem shiftIn_getLsbD_zero (sr : Byte) (b : Bool) : (shiftIn sr b).getLsbD 0 = b := by
  simp [shiftIn]

@[simp] theorem shiftIn_getLsbD_succ (sr : Byte) (b : Bool) {k : Nat} (hk : k < 7) :
    (shiftIn sr b).getLsbD (k + 1) = sr.getLsbD k := by
  have hk8 : k + 1 < 8 := by omega
  have hk' : k < 8 := by omega
  simp [shiftIn, hk8, hk']

theorem rises_iff {i : Line} {old new : Byte} :
    rises i old new = true ↔ old.getLsbD i = false ∧ new.getLsbD i = true := by
  simp [rises]

/-- Settles O27: the three branches of the chain's reaction and the two of the outputs', by their conditions. -/
theorem chipReactsToPortWrites : Obligations.ChipReactsToPortWrites := by
  intro s m
  simp only [portWrite_chip, ← rises_iff]
  refine ⟨rfl, ?_, fun hclr => ⟨fun hrise => ?_, fun hrise => ?_⟩, fun hrise => ?_, fun hrise => ?_⟩
  · intro hhas hlow
    simp only [chipReact, hhas, hlow]
    rfl
  · have hsr : (chipReact s.params s.shout.port m s.chip).sr = shiftIn s.chip.sr (m.getLsbD s.params.posSer) := by
      rcases hclr with h | h <;> simp [chipReact, h, hrise, shiftIn]
    rw [hsr]
    exact ⟨shiftIn_getLsbD_zero _ _, fun k hk => shiftIn_getLsbD_succ _ _ hk⟩
  · rcases hclr with h | h <;> simp [chipReact, h, hrise]
  · simp [chipReact, hrise]
  · simp [chipReact, hrise]

/-! ## The chip's reaction to a `SEND` (R153) -/

theorem portRun_append (p : Params) (first rest : List Byte) (a : Byte × Chip) :
    portRun p (first ++ rest) a = portRun p rest (portRun p first a) := List.foldl_append

section
variable {p : Params} (hp : p.Legal)
include hp

/-- Between two masks the chip sees the levels of the three lines it has. -/
theorem chipReact_portMask (ser srclk rclk clr ser' srclk' rclk' clr' : Bool) (c : Chip) :
    chipReact p (portMask p ser srclk rclk clr) (portMask p ser' srclk' rclk' clr') c =
      { sr := if p.hasClr && !clr' then 0x00 else if !srclk && srclk' then shiftIn c.sr ser' else c.sr
        q := if !rclk && rclk' then c.sr else c.q } := by
  simp only [chipReact, rises, portMask_posSer hp, portMask_posSrclk hp, portMask_posRclk hp, portMask_posClr hp, shiftIn]
  cases p.hasClr <;> simp

/-- A write with both clocks low and the clear line high moves nothing, whatever the port held. -/
theorem chipReact_of_clocks_low (port : Byte) (ser : Bool) (c : Chip) :
    chipReact p port (portMask p ser false false true) c = c := by
  simp only [chipReact, rises, portMask_posSrclk hp, portMask_posRclk hp, portMask_posClr hp]
  cases p.hasClr <;> simp

/-- The three writes of a bit shift it in, whatever the port held. -/
theorem portRun_bitMasks (b : Bool) (port : Byte) (c : Chip) :
    portRun p (bitMasks p b) (port, c) = (portMask p b true false true, { c with sr := shiftIn c.sr b }) := by
  simp [portRun, bitMasks, chipReact_of_clocks_low hp, chipReact_portMask hp]

/-- The writes of some bits shift them in, the first of them first, and leave a port with the shift clock high and the
latch clock low. -/
theorem portRun_flatMap_bitMasks (bits : List Bool) (b : Bool) (a : Byte × Chip) :
    portRun p ((bits ++ [b]).flatMap (bitMasks p)) a =
      (portMask p b true false true, { a.2 with sr := (bits ++ [b]).foldl shiftIn a.2.sr }) := by
  induction bits generalizing a with
  | nil => exact (congrArg (portRun p · a) (List.append_nil _)).trans (portRun_bitMasks hp b a.1 a.2)
  | cons c rest ih =>
    rw [List.cons_append, List.flatMap_cons, portRun_append, portRun_bitMasks hp c a.1 a.2, ih, List.foldl_cons]

/-- A whole `SEND` shifts the pattern in, shows the chain, and clears it where it can. -/
theorem portRun_sendMasks (pattern : Byte) (a : Byte × Chip) :
    (portRun p (sendMasks p pattern) a).2 =
      { sr := if p.hasClr then 0x00 else ((List.range 8).map pattern.getLsbD).foldl shiftIn a.2.sr
        q := ((List.range 8).map pattern.getLsbD).foldl shiftIn a.2.sr } := by
  have hbits : (List.range 8).flatMap (fun i => bitMasks p (pattern.getLsbD i)) =
      (((List.range 7).map pattern.getLsbD) ++ [pattern.getLsbD 7]).flatMap (bitMasks p) := rfl
  rw [sendMasks, portRun_append, hbits, portRun_flatMap_bitMasks hp]
  cases hclr : p.hasClr <;> simp [portRun, chipReact_portMask hp, hclr, List.range_succ]

end

/-- Eight bits shifted in leave the first in the last stage. -/
theorem foldl_shiftIn_getLsbD (sr pattern : Byte) {k : Nat} (hk : k < 8) :
    (((List.range 8).map pattern.getLsbD).foldl shiftIn sr).getLsbD k = pattern.getLsbD (7 - k) := by
  simp only [List.range_succ, List.range_zero, List.nil_append, List.map_append, List.map_cons, List.map_nil,
    List.foldl_append, List.foldl_cons, List.foldl_nil]
  interval_cases k <;> simp only [shiftIn_getLsbD_zero, shiftIn_getLsbD_succ, Nat.reduceLT]

/-- Settles O28: the outputs show the chain as the latch clock rises, eight shifted bits, and the last write clears the
chain where there is a clear line. -/
theorem sendShowsThePatternReversed : Obligations.SendShowsThePatternReversed := by
  intro s pattern hp
  refine ⟨_, exec_send s pattern, fun k hk => ?_, ?_⟩
  · dsimp only
    rw [portRun_sendMasks hp]
    exact foldl_shiftIn_getLsbD _ _ hk
  · dsimp only
    rw [portRun_sendMasks hp]

/-! ## The edges of a `SEND` (R144) -/

/-- The places in a row of levels where a line rises. -/
def levelRises : Bool → List Bool → Nat → List Nat
  | _, [], _ => []
  | old, b :: rest, n => if !old && b then n :: levelRises b rest (n + 1) else levelRises b rest (n + 1)

/-- The rising edges of a line are those of its levels. -/
theorem risingEdges_eq_levelRises (i : Line) (old : Byte) (masks : List Byte) (n : Nat) :
    risingEdges i old masks n = levelRises (old.getLsbD i) (masks.map (fun m => m.getLsbD i)) n := by
  induction masks generalizing old n with
  | nil => rfl
  | cons m rest ih => simp only [risingEdges, List.map_cons, levelRises, rises, ih]

/-- The falling edges of a line are the rising ones of its levels turned round. -/
theorem fallingEdges_eq_levelRises (i : Line) (old : Byte) (masks : List Byte) (n : Nat) :
    fallingEdges i old masks n = levelRises (!old.getLsbD i) ((masks.map (fun m => m.getLsbD i)).map not) n := by
  induction masks generalizing old n with
  | nil => rfl
  | cons m rest ih =>
    simp only [fallingEdges, List.map_cons, levelRises, rises, ih, Bool.not_not, Bool.and_comm]

/-- Before a `SEND` from an idle port every line is low. -/
theorem getLsbD_idle (i : Line) : (0x00 : Byte).getLsbD i = false := BitVec.getLsbD_zero

/-- The levels of a line in the writes of a `SEND`, from its level in each mask. -/
theorem map_getLsbD_sendMasks {p : Params} {i : Line} {level : Bool → Bool → Bool → Bool → Bool}
    (hlevel : ∀ ser srclk rclk clr, (portMask p ser srclk rclk clr).getLsbD i = level ser srclk rclk clr)
    (pattern : Byte) :
    (sendMasks p pattern).map (fun m => m.getLsbD i) =
      (List.range 8).flatMap (fun k => [level false false false true, level (pattern.getLsbD k) false false true,
        level (pattern.getLsbD k) true false true]) ++
      [level (pattern.getLsbD 7) true true true, level false false false false] := by
  simp only [sendMasks, bitMasks, List.map_append, List.map_flatMap, List.map_cons, List.map_nil, hlevel]

section
variable {p : Params} (hp : p.Legal) (pattern : Byte)
include hp

/-- The shift clock rises at the third write of each bit. -/
theorem risingEdges_posSrclk : risingEdges p.posSrclk 0x00 (sendMasks p pattern) 0 = [2, 5, 8, 11, 14, 17, 20, 23] := by
  rw [risingEdges_eq_levelRises, getLsbD_idle, map_getLsbD_sendMasks (portMask_posSrclk hp)]
  rfl

/-- The latch clock rises once, after all the bits. -/
theorem risingEdges_posRclk : risingEdges p.posRclk 0x00 (sendMasks p pattern) 0 = [24] := by
  rw [risingEdges_eq_levelRises, getLsbD_idle, map_getLsbD_sendMasks (portMask_posRclk hp)]
  rfl

/-- The clear line rises at the first write and falls at the last. -/
theorem edges_posClr (hclr : p.hasClr = true) :
    risingEdges p.posClr 0x00 (sendMasks p pattern) 0 = [0] ∧
      fallingEdges p.posClr 0x00 (sendMasks p pattern) 0 = [25] := by
  rw [risingEdges_eq_levelRises, fallingEdges_eq_levelRises, getLsbD_idle, map_getLsbD_sendMasks (portMask_posClr hp), hclr]
  exact ⟨rfl, rfl⟩

/-- The second and the third write of each bit hold it on the data line. -/
theorem sendMasks_posSer {i : Nat} (hi : i < 8) :
    ((sendMasks p pattern).getD (3 * i + 2) 0).getLsbD p.posSer = pattern.getLsbD i ∧
      ((sendMasks p pattern).getD (3 * i + 1) 0).getLsbD p.posSer = pattern.getLsbD i := by
  interval_cases i <;> exact ⟨portMask_posSer hp .., portMask_posSer hp ..⟩

end

/-- Settles O29: the levels of each line in the 26 masks have these edges. -/
theorem sendEdgeLaw : Obligations.SendEdgeLaw := by
  intro s t pattern hp hidle h
  cases (exec_send s pattern).symm.trans h
  rw [hidle]
  exact ⟨sendMasks s.params pattern, rfl, sendMasks_length _ _, risingEdges_posSrclk hp pattern,
    risingEdges_posRclk hp pattern, edges_posClr hp pattern, fun i hi => sendMasks_posSer hp pattern hi⟩

end Sys2Proof.Machine
end

section
/-! PROOFS. Which operations commute (20_memory.md R73, 60_exceptions.md R265, 41_shift_out.md R150): an operation that
ignores an update of the state may be taken before or after the step that makes the update. -/

namespace Sys2Proof.Machine

/-! ## Updates an operation ignores -/

/-- An outcome with its next state updated. -/
def mapNext (f : State → State) : Host.Outcome State Fault Refusal → Host.Outcome State Fault Refusal
  | .next s => .next (f s)
  | .fault r => .fault r
  | .refused r => .refused r

theorem mapNext_eq_next_iff {f : State → State} {o : Host.Outcome State Fault Refusal} {t : State} :
    mapNext f o = .next t ↔ ∃ u, o = .next u ∧ t = f u := by
  cases o <;> simp [mapNext, eq_comm]

/-- An operation that gives the same outcome before and after an update, updated alike. -/
def Ignores (i : Instr) (f : State → State) : Prop := ∀ s, exec i (f s) = mapNext f (exec i s)

/-- An operation commutes with one that always makes an update it ignores. -/
theorem runOps_pair_comm {i e : Instr} {f : State → State} {s : State} (hi : Ignores i f) (hs : exec e s = .next (f s))
    (ht : ∀ t, exec i s = .next t → exec e t = .next (f t)) : runOps [i, e] s = runOps [e, i] s := by
  rw [runOps_cons_of_next hs, runOps, runOps, hi s]
  cases h : exec i s with
  | next t => exact runOps_cons_of_next (ht t h) []
  | fault r => rfl
  | refused r => rfl

theorem Ignores.comp {i : Instr} {f g : State → State} (hf : Ignores i f) (hg : Ignores i g) : Ignores i (g ∘ f) := by
  intro s
  rw [Function.comp_apply, hg, hf]
  cases exec i s <;> rfl

/-- Both branches of an operation that branches on nothing the update touches. -/
theorem ite_eq_mapNext_ite {f : State → State} (c : Prop) [Decidable c]
    {a a' b b' : Host.Outcome State Fault Refusal} (ha : a' = mapNext f a) (hb : b' = mapNext f b) :
    (if c then a' else b') = mapNext f (if c then a else b) := by
  rw [ha, hb, apply_ite (mapNext f)]

theorem elim_eq_mapNext_elim {f : State → State} (o : Option Reason) {a a' : Host.Outcome State Fault Refusal}
    {b b' : Reason → Host.Outcome State Fault Refusal} (ha : a' = mapNext f a) (hb : ∀ r, b' r = mapNext f (b r)) :
    o.elim a' b' = mapNext f (o.elim a b) := by
  cases o with
  | none => exact ha
  | some r => exact hb r

/-- `ARM` branches on the problem of its period. -/
theorem exec_arm_eq_elim (m : Count) (s : State) :
    exec (.arm m) s = (periodProblem s.params.wCnt m).elim
      (.next { s with tick := { s.tick with reload := m, cnt := m, armed := true }, answer := .nothing })
      (fun r => .next (s.refuse r)) := by
  rw [exec, execArm]
  cases periodProblem s.params.wCnt m <;> rfl

/-- `SETPERIOD` branches on the problem of its period. -/
theorem exec_setPeriod_eq_elim (m : Count) (s : State) :
    exec (.setPeriod m) s = (periodProblem s.params.wCnt m).elim
      (.next { s with tick := { s.tick with reload := m }, answer := .nothing }) (fun r => .next (s.refuse r)) := by
  rw [exec, execSetPeriod]
  cases periodProblem s.params.wCnt m <;> rfl

/-! ## A compare event (R73) -/

/-- What an enabled compare event does. -/
def interrupt (s : State) : State := { s with tick := takeInterrupt s.params.wCnt s.tick }

/-- The operations of the other units do not see the TICK unit. -/
theorem ignores_interrupt {i : Instr} (harm : ∀ m, i ≠ .arm m) (hdisarm : i ≠ .disarm)
    (hset : ∀ m, i ≠ .setPeriod m) (hpoll : i ≠ .poll) (hack : i ≠ .ack) (hcmp : i ≠ .cmpEvent) : Ignores i interrupt := by
  intro s
  cases i with
  | arm m => exact absurd rfl (harm m)
  | disarm => exact absurd rfl hdisarm
  | setPeriod m => exact absurd rfl (hset m)
  | poll => exact absurd rfl hpoll
  | ack => exact absurd rfl hack
  | cmpEvent => exact absurd rfl hcmp
  | send b => rw [exec_send, exec_send]; rfl
  | classify | sampleDir | encode | decode | flush => rfl
  | trySend | tryReceive | rxArrive | txDone => exact ite_eq_mapNext_ite _ rfl rfl

/-- Settles O47: an operation of another unit ignores the interrupt and leaves the timer armed. -/
theorem compareEventCommutesWithOtherUnits : Obligations.CompareEventCommutesWithOtherUnits := by
  intro i s harmed harm hdisarm hset hpoll hack hcmp
  refine runOps_pair_comm (ignores_interrupt harm hdisarm hset hpoll hack hcmp) (exec_cmpEvent_of_armed harmed) ?_
  intro t ht
  have htick := (exec_eq_next_iff.mp ht).tick_eq harm hdisarm hset hack hcmp
  exact exec_cmpEvent_of_armed (htick ▸ harmed)

/-! ## The serial hardware (R265) -/

/-- An update of the LINK unit and the oracle of overruns, from themselves. -/
def onLink (g : LinkUnit → Draws Byte → LinkUnit × Draws Byte) (s : State) : State :=
  { s with
    link := (g s.link s.oracles.overrun).1
    oracles := { s.oracles with overrun := (g s.link s.oracles.overrun).2 } }

/-- The host operations of the other units do not see the LINK unit. -/
theorem ignores_onLink {i : Instr} (hhost : i.isEnvironment = false) (hsend : ∀ b, i ≠ .trySend b)
    (hrecv : i ≠ .tryReceive) (hflush : i ≠ .flush) (g : LinkUnit → Draws Byte → LinkUnit × Draws Byte) :
    Ignores i (onLink g) := by
  intro s
  cases i with
  | trySend b => exact absurd rfl (hsend b)
  | tryReceive => exact absurd rfl hrecv
  | flush => exact absurd rfl hflush
  | cmpEvent | rxArrive | txDone => exact nomatch hhost
  | arm m =>
    rw [exec_arm_eq_elim, exec_arm_eq_elim]
    exact elim_eq_mapNext_elim _ rfl (fun _ => rfl)
  | setPeriod m =>
    rw [exec_setPeriod_eq_elim, exec_setPeriod_eq_elim]
    exact elim_eq_mapNext_elim _ rfl (fun _ => rfl)
  | send b => rw [exec_send, exec_send]; rfl
  | disarm | poll | ack | classify | sampleDir | encode | decode => rfl

/-- What an arrival does to the unit, with an empty slot and with a full one. -/
def arrival (b : Byte) (l : LinkUnit) (d : Draws Byte) : LinkUnit × Draws Byte :=
  ({ l with
      rxFull := true
      rxData := if l.rxFull then (drawFrom d Config.overrunFree).1 else b
      rxOvr := l.rxFull || l.rxOvr },
    if l.rxFull then (drawFrom d Config.overrunFree).2 else d)

theorem exec_rxArrive (b : Byte) (s : State) : exec (.rxArrive b) s = .next (onLink (arrival b) s) := by
  rcases execRxArrive_cases b s with ⟨h, e⟩ | ⟨h, e⟩
  · rw [exec, e]
    simp [onLink, arrival, h, overrunReceive, overrunDraw]
  · rw [exec, e]
    simp [onLink, arrival, h, fillReceive]

/-- The host operations that do not read the receive slot do not see an arrival. -/
theorem ignores_arrival {i : Instr} (hhost : i.isEnvironment = false) (hrecv : i ≠ .tryReceive) (hflush : i ≠ .flush)
    (b : Byte) : Ignores i (onLink (arrival b)) := by
  cases i with
  | trySend => exact fun s => ite_eq_mapNext_ite _ rfl rfl
  | _ => exact ignores_onLink hhost nofun hrecv hflush _

/-- What an enabled transmitter completion does to the unit. -/
def completion (l : LinkUnit) (d : Draws Byte) : LinkUnit × Draws Byte := (setTxReady l, d)

theorem exec_txDone_of_busy {s : State} (h : s.link.txReady = false) : exec .txDone s = .next (onLink completion s) :=
  exec_eq_next_iff.mpr (.txDone h)

/-- The host operations but `TRYSEND` do not see the transmitter. -/
theorem ignores_completion {i : Instr} (hhost : i.isEnvironment = false) (hsend : ∀ b, i ≠ .trySend b) :
    Ignores i (onLink completion) := by
  cases i with
  | tryReceive =>
    refine fun s => ite_eq_mapNext_ite _ ?_ rfl
    simp only [mapNext, onLink, completion, apply_ite setTxReady]
    rfl
  | flush => exact fun _ => rfl
  | _ => exact ignores_onLink hhost hsend nofun nofun _

/-- No host operation but `TRYSEND` changes whether the transmitter is ready (R37). -/
theorem Effect.txReady_eq {i : Instr} {s t : State} (e : Effect s i t) (hhost : i.isEnvironment = false)
    (hsend : ∀ b, i ≠ .trySend b) : t.link.txReady = s.link.txReady := by
  cases e with
  | sent | dropped => exact absurd rfl (hsend _)
  | cmpEvent | arrival | overrun | txDone => exact nomatch hhost
  | received => dsimp only; split <;> rfl
  | _ => rfl

/-- Settles O48: an arrival makes an update that the host operations off the receive slot ignore, and a completion one
that the host operations off the transmitter ignore and do not disable. -/
theorem serialHardwareCommutesWithHost : Obligations.SerialHardwareCommutesWithHost := by
  constructor
  · intro i b s hhost hrecv hflush
    exact runOps_pair_comm (ignores_arrival hhost hrecv hflush b) (exec_rxArrive b s) (fun t _ => exec_rxArrive b t)
  · intro i s hhost hsend hbusy
    refine runOps_pair_comm (ignores_completion hhost hsend) (exec_txDone_of_busy hbusy) ?_
    intro t ht
    have hsame := (exec_eq_next_iff.mp ht).txReady_eq hhost hsend
    exact exec_txDone_of_busy (hsame.trans hbusy)

/-! ## The writes of a `SEND` (R150) -/

section
variable {i : Instr} (henv : i.isEnvironment = true)
include henv

/-- A step of the environment does not see the output port and the chip. -/
theorem ignores_portWrite (m : Byte) : Ignores i (fun s => portWrite s m) := by
  intro s
  cases i with
  | cmpEvent | txDone => exact ite_eq_mapNext_ite _ rfl rfl
  | rxArrive b => rw [exec_rxArrive, exec_rxArrive]; rfl
  | _ => exact nomatch henv

theorem ignores_foldl_portWrite (masks : List Byte) : Ignores i (fun s => masks.foldl portWrite s) := by
  induction masks with
  | nil =>
    intro s
    cases h : exec i s <;> simp [mapNext, h]
  | cons m rest ih => exact (ignores_portWrite henv m).comp ih

/-- A step of the environment leaves the answer (log 7). -/
theorem ignores_hand (a : Answer) : Ignores i (fun s => s.hand a) := by
  intro s
  cases i with
  | cmpEvent | txDone => exact ite_eq_mapNext_ite _ rfl rfl
  | rxArrive b => rw [exec_rxArrive, exec_rxArrive]; rfl
  | _ => exact nomatch henv

end

/-- Settles O30: the step ignores the writes before it, so it comes from the state before the `SEND`; with all the
writes after it this is the second run, and it ignores those too, which is the first. -/
theorem compareEventMayFallInsideSend : Obligations.CompareEventMayFallInsideSend := by
  intro s t i pattern first rest henv hmasks h
  have hbefore : exec i (first.foldl portWrite s) = mapNext (first.foldl portWrite ·) (exec i s) :=
    ignores_foldl_portWrite henv first s
  obtain ⟨u, hu, rfl⟩ := mapNext_eq_next_iff.mp (hbefore.symm.trans h)
  have hparams : u.params = s.params := (exec_keeps hu).2.1
  have hwhole : rest.foldl portWrite (first.foldl portWrite u) = (sendMasks s.params pattern).foldl portWrite u := by
    rw [← List.foldl_append, hmasks]
  rw [hwhole]
  have hsend : exec (.send pattern) s = .next (((sendMasks s.params pattern).foldl portWrite s).hand .nothing) := rfl
  have hsend' : exec (.send pattern) u = .next (((sendMasks s.params pattern).foldl portWrite u).hand .nothing) := by
    rw [exec, execSend, hparams]
  have hafter : exec i (((sendMasks s.params pattern).foldl portWrite s).hand .nothing) =
      .next (((sendMasks s.params pattern).foldl portWrite u).hand .nothing) := by
    have hboth := (ignores_foldl_portWrite henv (sendMasks s.params pattern)).comp (ignores_hand henv .nothing) s
    rw [hu] at hboth
    exact hboth
  constructor
  · rw [runOps_cons_of_next hsend, runOps_cons_of_next hafter, runOps]
  · rw [runOps_cons_of_next hu, runOps_cons_of_next hsend', runOps]

end Sys2Proof.Machine
end

section
/-! PROOFS. The oracles, the region sizes of the direction decoder (42_direction_decoder.md section 2), the frame codec and
the serial slots (43_link_codec.md). -/

namespace Sys2Proof.Machine

/-! ## One draw of an oracle (R14) -/

section
variable {α : Type} {d : Draws α} (free : Nat → α)

theorem drawFrom_of_script {a : α} {rest : List α} (h : d.script = a :: rest) :
    drawFrom d free = (a, { script := rest, used := d.used + 1 }) := by
  rw [drawFrom, h]

theorem drawFrom_of_nil (h : d.script = []) : drawFrom d free = (free d.used, { script := [], used := d.used + 1 }) := by
  rw [drawFrom, h]

end

/-- `SAMPLE_DIR` with two answers in the script (R176). -/
theorem exec_sampleDir_of_script {s : State} {x y : Sample} {rest : List Sample}
    (h : s.oracles.adc.script = x :: y :: rest) :
    exec .sampleDir s = .next { s with
      oracles := { s.oracles with adc := { script := rest, used := s.oracles.adc.used + 2 } }
      answer := .direction (classify x y) } := by
  simp only [exec, execSampleDir, adcRead]
  rw [drawFrom_of_script _ h, drawFrom_of_script _ rfl]
  rfl

/-- Settles O34: two draws one after the other take what the script has, and the free values past its end. -/
theorem sampleDirClassifiesTwoDraws : Obligations.SampleDirClassifiesTwoDraws := by
  refine ⟨fun s x y rest h => exec_sampleDir_of_script h, fun s x h => ?_, fun s h => ?_⟩ <;>
    simp only [exec, execSampleDir, adcRead]
  · rw [drawFrom_of_script _ h, drawFrom_of_nil _ rfl]
    rfl
  · rw [drawFrom_of_nil _ h, drawFrom_of_nil _ rfl]
    rfl

/-! ## The regions of the decoder (R175) -/

/-- The sample pairs, as numbers. -/
def samplePairs : Finset (Nat × Nat) := Finset.range 1024 ×ˢ Finset.range 1024

/-- The pairs of a direction. -/
def region (d : Direction) : Finset (Nat × Nat) :=
  samplePairs.filter (fun q => classify (BitVec.ofNat 10 q.1) (BitVec.ofNat 10 q.2) = d)

/-- Of a direction other than `Neutral`, the pairs of its predicate. -/
theorem mem_region_iff {d : Direction} (hd : d ≠ .neutral) {a b : Nat} :
    (a, b) ∈ region d ↔ (a < 1024 ∧ b < 1024) ∧ PointsTo (BitVec.ofNat 10 a) (BitVec.ofNat 10 b) d := by
  simp only [region, samplePairs, Finset.mem_filter, Finset.mem_product, Finset.mem_range, classify_eq_iff_pointsTo hd]

/-- Each region but `Neutral`'s is a rectangle: the middle band of one axis, the far end of the other. -/
theorem region_eq_product :
    region .up = Finset.Ioo 100 900 ×ˢ Finset.Ioo 1000 1024 ∧
    region .down = Finset.Ioo 100 900 ×ˢ Finset.range 50 ∧
    region .right = Finset.Ioo 1000 1024 ×ˢ Finset.Ioo 100 900 ∧
    region .left = Finset.range 50 ×ˢ Finset.Ioo 100 900 := by
  refine ⟨?_, ?_, ?_, ?_⟩ <;>
  · ext ⟨a, b⟩
    rw [mem_region_iff (by decide)]
    simp only [PointsTo, BitVec.toNat_ofNat, Finset.mem_product, Finset.mem_Ioo, Finset.mem_range]
    omega

theorem card_samplePairs : samplePairs.card = 1048576 := by
  rw [samplePairs, Finset.card_product, Finset.card_range]

theorem card_region :
    (region .up).card = 18377 ∧ (region .down).card = 39950 ∧ (region .right).card = 18377 ∧
      (region .left).card = 39950 := by
  obtain ⟨hup, hdown, hright, hleft⟩ := region_eq_product
  refine ⟨?_, ?_, ?_, ?_⟩
  · rw [hup, Finset.card_product, Nat.card_Ioo, Nat.card_Ioo]
  · rw [hdown, Finset.card_product, Nat.card_Ioo, Finset.card_range]
  · rw [hright, Finset.card_product, Nat.card_Ioo, Nat.card_Ioo]
  · rw [hleft, Finset.card_product, Finset.card_range, Nat.card_Ioo]

/-- The members of a set that have no other direction. The set is a variable, since arithmetic on the cardinality of the
sample pairs themselves would count them one by one. -/
theorem card_filter_neutral {pairs : Finset (Nat × Nat)} {dir : Nat × Nat → Direction} (hall : pairs.card = 1048576)
    (hup : (pairs.filter (dir · = .up)).card = 18377) (hdown : (pairs.filter (dir · = .down)).card = 39950)
    (hright : (pairs.filter (dir · = .right)).card = 18377) (hleft : (pairs.filter (dir · = .left)).card = 39950) :
    (pairs.filter (dir · = .neutral)).card = 931922 := by
  have hsum := Finset.card_eq_sum_card_fiberwise (f := dir) (s := pairs) (t := {.neutral, .up, .down, .right, .left})
    (fun q _ => by cases dir q <;> simp)
  simp only [Finset.sum_insert, Finset.sum_singleton, Finset.mem_insert, Finset.mem_singleton, reduceCtorEq, or_self,
    not_false_eq_true, hall, hup, hdown, hright, hleft] at hsum
  omega

/-- Settles O33: four rectangles, and the rest. -/
theorem directionRegionSizes : Obligations.DirectionRegionSizes := by
  obtain ⟨hup, hdown, hright, hleft⟩ := card_region
  intro d
  cases d with
  | up => exact hup
  | down => exact hdown
  | right => exact hright
  | left => exact hleft
  | neutral => exact card_filter_neutral card_samplePairs hup hdown hright hleft

/-! ## The frame codec (R191 to R196) -/

/-- The bits of a frame (R191). -/
theorem packFrame_bits (d : Direction) (f : Bool) :
    (packFrame d f).getLsbD 0 = (d == .left) ∧ (packFrame d f).getLsbD 1 = (d == .right) ∧
    (packFrame d f).getLsbD 2 = (d == .down) ∧ (packFrame d f).getLsbD 3 = (d == .up) ∧
    (packFrame d f).getLsbD 4 = f ∧ (packFrame d f).extractLsb' 5 3 = 0b000 := by
  cases d <;> cases f <;> decide

/-- The direction a decode returns, by its `DIR4` (R194). -/
theorem dir4_frameDirection (b : Byte) :
    (frameDirection b).dir4 = if directionBits b ≤ 1 then b.extractLsb' 0 4 else 0b0000 := by
  revert b; decide

/-- A frame decodes to what it was made of (R195). -/
theorem decode_packFrame (d : Direction) (f : Bool) :
    frameDirection (packFrame d f) = d ∧ frameFlag (packFrame d f) = f ∧ frameValid (packFrame d f) = true := by
  cases d <;> cases f <;> decide

/-- A valid byte is the frame of what it decodes to (R195). -/
theorem packFrame_decode {b : Byte} (h : frameValid b = true) : packFrame (frameDirection b) (frameFlag b) = b := by
  revert b; decide

/-- The ten canonical bytes (R82). -/
theorem frameValid_iff_mem (b : Byte) :
    frameValid b = true ↔ b ∈ ([0x00, 0x10, 0x01, 0x11, 0x02, 0x12, 0x04, 0x14, 0x08, 0x18] : List Byte) := by
  revert b; decide

/-- Settles O35: the frame is the packed one, whose bits are one-hot. -/
theorem encodePacksTheFrame : Obligations.EncodePacksTheFrame := by
  intro s d f
  exact ⟨packFrame d f, exec_eq_next_iff.mpr .encode, packFrame_bits d f⟩

/-- Settles O36: the three results by what they are made of. -/
theorem decodeUnpacksTheFrame : Obligations.DecodeUnpacksTheFrame := by
  intro s b
  refine ⟨frameDirection b, frameValid b, exec_eq_next_iff.mpr .decode, ?_, dir4_frameDirection b⟩
  rw [frameValid, directionBits, Bool.and_eq_true, decide_eq_true_eq, decide_eq_true_eq]

/-- Settles O37: the codec is inverse both ways, and neither operation changes more than the answer. -/
theorem frameRoundTrip : Obligations.FrameRoundTrip := by
  constructor
  · intro s d f
    obtain ⟨hd, hf, hv⟩ := decode_packFrame d f
    have hdecode : exec (.decode (packFrame d f)) (s.hand (.frame (packFrame d f))) =
        .next (s.hand (.decoded d f true)) := by
      rw [exec, execDecode, hd, hf, hv]
      rfl
    exact ⟨packFrame d f, _, exec_eq_next_iff.mpr .encode, rfl, hdecode⟩
  · intro s t b d f h hanswer
    cases h
    obtain ⟨rfl, rfl, hv⟩ := Answer.decoded.inj hanswer
    rw [exec, execEncode, packFrame_decode hv]
    rfl

/-- Settles O38: a decode reports a frame exactly where the byte is valid. -/
theorem tenCanonicalFrames : Obligations.TenCanonicalFrames := by
  intro s b
  rw [← frameValid_iff_mem]
  constructor
  · rintro ⟨d, f, h⟩
    have hanswer := congrArg State.answer (Host.Outcome.next.inj h)
    exact (Answer.decoded.inj hanswer).2.2
  · intro hv
    exact ⟨frameDirection b, frameFlag b, hv ▸ exec_eq_next_iff.mpr .decode⟩

/-! ## The serial slots (R201 to R205) -/

/-- Settles O40: a fair run takes a completion, and the place after it finds the transmitter ready. -/
theorem txDoneFreesTheTransmitter : Obligations.TxDoneFreesTheTransmitter := by
  intro s
  refine ⟨fun h => exec_eq_next_iff.mpr (.txDone h), fun hready t h => ?_, fun r n hfair hbusy => ?_⟩
  · exact absurd (execTxDone_next h).1 (by simp [hready])
  · obtain ⟨m, hm, htakes⟩ := hfair n hbusy
    obtain ⟨_, hnext⟩ := execTxDone_next (Run.takes_exec htakes)
    exact ⟨m + 1, by omega, by rw [hnext]; rfl⟩

/-- Settles O41: a full slot is emptied where reading clears, and stays full where it does not. -/
theorem tryReceiveReadsTheSlot : Obligations.TryReceiveReadsTheSlot := by
  intro s
  constructor
  · intro hfull
    have hlink : (if s.params.rxReadClears then clearRxFull s.link else s.link) =
        { s.link with rxFull := !s.params.rxReadClears } := by
      cases s.params.rxReadClears
      · simp [← hfull]
      · rfl
    rw [exec_eq_next_iff.mpr (.received hfull), hlink]
  · exact fun hempty => exec_eq_next_iff.mpr (.nothingReceived hempty)

/-- Settles O43: an empty slot takes the byte, a full one the draw. -/
theorem rxArriveFillsOrOverruns : Obligations.RxArriveFillsOrOverruns := by
  intro s b
  refine ⟨fun hempty => exec_eq_next_iff.mpr (.arrival hempty), fun hfull hnil => ?_, fun v rest hfull hscript => ?_⟩
  · rw [exec_eq_next_iff.mpr (.overrun hfull), overrunDraw, drawFrom_of_nil _ hnil]
    rfl
  · rw [exec_eq_next_iff.mpr (.overrun hfull), overrunDraw, drawFrom_of_script _ hscript]
    rfl

end Sys2Proof.Machine
end

section
/-! PROOFS. Turns of the host agent (44_host_scheduler_fsm.md): boot, and the wait for a tick (40_tick_source.md
section 4, 30_encoding.md part C) with a tick pending, disarmed, and in a fair run. -/

namespace Sys2Proof.Machine

/-- Settles O10: each value is a field of the power-on state. -/
theorem powerOnValuesAreTheTable : Obligations.PowerOnValuesAreTheTable := by
  intro p u
  exact ⟨rfl, rfl, rfl, rfl, rfl, rfl, rfl, rfl, rfl, rfl, rfl, rfl, rfl, rfl⟩

/-! ## One turn -/

/-- A turn that issues an operation: the host takes the answer. -/
theorem hostTurn_of_exec {s u : State} {i : Instr} (hissue : hostIssue s.params s.host = some i)
    (hexec : exec i s = .next u) : hostTurn s = .next { u with host := hostAbsorb s.params u.answer s.host } := by
  obtain ⟨hhost, hparams, _⟩ := exec_keeps hexec
  simp only [hostTurn, hissue, hexec, hparams, hhost]

/-- A turn that issues none. -/
theorem hostTurn_of_compute {s : State} (hissue : hostIssue s.params s.host = none) :
    hostTurn s = .next (hostCompute s) := by
  simp only [hostTurn, hissue]

/-- Some turns are the first and those from where it ends. -/
theorem hostTurns_cons {s t u : State} {k : Nat} (h : hostTurn s = .next t) (hrest : hostTurns k t = .next u) :
    hostTurns (k + 1) s = .next u := by
  rw [hostTurns, h]
  exact hrest

/-- Settles O50: the first turn arms the host's period, and the top of the loop is the role's. -/
theorem bootArmsThenEntersTheLoop : Obligations.BootArmsThenEntersTheLoop := by
  intro p u hfits h0
  refine ⟨_, hostTurn_of_exec rfl (exec_arm_of_legal hfits h0), rfl, ?_⟩
  change loopTop p = _
  rw [loopTop]
  cases p.role <;> rfl

/-! ## The wait for a tick -/

section
variable {s : State} (hpc : s.host.pc = .poll)
include hpc

/-- A `POLL` that finds no tick leaves the host at its `POLL` (R94). -/
theorem hostTurn_poll_of_clear (hp : s.tick.tickPending = false) :
    hostTurn s = .next (s.hand (.poll false)) := by
  have hissue : hostIssue s.params s.host = some .poll := by rw [hostIssue, hpc]
  rw [hostTurn_of_exec hissue (exec_eq_next_iff.mpr .poll), hp]
  simp only [hostAbsorb, hpc, State.hand]

/-- A `POLL` that finds a tick takes the host on to its `ACK` (R94). -/
theorem hostTurn_poll_of_pending (hp : s.tick.tickPending = true) :
    hostTurn s = .next { s with answer := .poll true, host := { s.host with pc := .ack } } := by
  have hissue : hostIssue s.params s.host = some .poll := by rw [hostIssue, hpc]
  rw [hostTurn_of_exec hissue (exec_eq_next_iff.mpr .poll), hp]
  simp only [hostAbsorb, hpc, State.hand]

end

/-- The `ACK` clears the flag and takes the host on to its tasks (R94). -/
theorem hostTurn_ack {s : State} (hpc : s.host.pc = .ack) :
    hostTurn s = .next { s with
      tick := clearTickPending s.tick, answer := .nothing, host := { s.host with pc := .task 0 } } := by
  have hissue : hostIssue s.params s.host = some .ack := by rw [hostIssue, hpc]
  rw [hostTurn_of_exec hissue (exec_eq_next_iff.mpr .ack)]
  simp only [hostAbsorb, hpc]

/-- A turn of the host agent or a step of the environment. -/
def AgentStep (s t : State) : Prop := hostTurn s = .next t ∨ ∃ i, i.isEnvironment = true ∧ exec i s = .next t

/-- A step of the environment leaves the TICK unit or is the interrupt. -/
theorem Effect.tick_of_environment {i : Instr} {s t : State} (e : Effect s i t) (henv : i.isEnvironment = true) :
    t.tick = s.tick ∨ s.tick.armed = true ∧ t.tick = takeInterrupt s.params.wCnt s.tick := by
  cases e with
  | cmpEvent harmed => exact .inr ⟨harmed, rfl⟩
  | arrival | overrun | txDone => exact .inl rfl
  | _ => exact nomatch henv

/-- What can happen to a host at its `POLL`: it finds a tick, or it stays there while the TICK unit stands or takes the
interrupt. -/
theorem AgentStep.of_polling {s t : State} (h : AgentStep s t) (hpc : s.host.pc = .poll) :
    (s.tick.tickPending = true ∧ t.host.pc = .ack) ∨
    (t.host = s.host ∧ t.params = s.params ∧
      (t.tick = s.tick ∨ s.tick.armed = true ∧ t.tick = takeInterrupt s.params.wCnt s.tick)) := by
  rcases h with hturn | ⟨i, henv, hexec⟩
  · cases hp : s.tick.tickPending with
    | false => cases (hostTurn_poll_of_clear hpc hp).symm.trans hturn; exact .inr ⟨rfl, rfl, .inl rfl⟩
    | true => cases (hostTurn_poll_of_pending hpc hp).symm.trans hturn; exact .inl ⟨rfl, rfl⟩
  · obtain ⟨hhost, hparams, _⟩ := exec_keeps hexec
    exact .inr ⟨hhost, hparams, (exec_eq_next_iff.mp hexec).tick_of_environment henv⟩

/-- With the timer disarmed and no tick, a host at its `POLL` stays there, and the TICK unit stands (R127, R309). -/
theorem AgentStep.of_hanging {s t : State} (h : AgentStep s t) (hpc : s.host.pc = .poll)
    (hdisarmed : s.tick.armed = false) (hp : s.tick.tickPending = false) : t.host = s.host ∧ t.tick = s.tick := by
  rcases h.of_polling hpc with ⟨hpending, _⟩ | ⟨hhost, _, htick | ⟨harmed, _⟩⟩
  · exact nomatch hp.symm.trans hpending
  · exact ⟨hhost, htick⟩
  · exact nomatch hdisarmed.symm.trans harmed

theorem Run.agentStep {r : Run} {n m : Nat} (h : r.ByAgents n) (hm : n ≤ m) :
    AgentStep (r.states m) (r.states (m + 1)) := by
  rcases h m hm with hturn | ⟨i, htakes, henv⟩
  · exact .inl (Run.turn hturn)
  · exact .inr ⟨i, henv, Run.takes_exec htakes⟩

/-- Settles O52: no step of the agent or of the environment ends the wait, so none of any number does. -/
theorem waitTickWhileDisarmedHangs : Obligations.WaitTickWhileDisarmedHangs := by
  refine ⟨?_, ?_, ?_⟩
  · intro s k hpc hdisarmed hp
    induction k generalizing s with
    | zero => exact ⟨s, rfl, rfl, rfl⟩
    | succ k ih =>
      obtain ⟨t, ht, hhost, htick⟩ := ih (s.hand (.poll false)) hpc hdisarmed hp
      exact ⟨t, hostTurns_cons (hostTurn_poll_of_clear hpc hp) ht, hhost, htick⟩
  · intro s t hpc hdisarmed hp hslot h
    have hagent : AgentStep s.advance t := by
      rcases hslot with hturn | ⟨w, i, hword, hdecode, henv⟩
      · rw [step, hturn] at h
        exact .inl h
      · refine .inr ⟨i, henv, ?_⟩
        simpa only [step, hword, takeSlot, advance_params, hdecode] using h
    exact hagent.of_hanging hpc hdisarmed hp
  · intro r n m hagents hpc hdisarmed hp hnm
    induction m, hnm using Nat.le_induction with
    | base => exact ⟨rfl, rfl⟩
    | succ m hnm ih =>
      obtain ⟨hhost, htick⟩ := ih
      obtain ⟨hhost', htick'⟩ :=
        (Run.agentStep hagents hnm).of_hanging (hhost ▸ hpc) (htick ▸ hdisarmed) (htick ▸ hp)
      exact ⟨hhost'.trans hhost, htick'.trans htick⟩

/-! ## The wait in a fair run (R127) -/

/-- A tick is there, or will come: the count is above zero and within its width. -/
def TickUnit.Running (w : Nat) (t : TickUnit) : Prop :=
  t.tickPending = true ∨ t.cnt ≠ 0 ∧ t.cnt.toNat < 2 ^ w

/-- How many compare events the tick is away. -/
def TickUnit.eventsLeft (t : TickUnit) : Nat := if t.tickPending then 0 else t.cnt.toNat

theorem TickUnit.Running.pending_of_eventsLeft_eq_zero {w : Nat} {t : TickUnit} (h : t.Running w)
    (hzero : t.eventsLeft = 0) : t.tickPending = true := by
  by_contra hp
  obtain ⟨h0, _⟩ := h.resolve_left hp
  rw [TickUnit.eventsLeft, if_neg hp] at hzero
  exact h0 (BitVec.eq_of_toNat_eq hzero)

/-- Each compare event brings the tick nearer, and one that has come stays. -/
theorem TickUnit.Running.takeInterrupt {w : Nat} (hw : w ≤ 32) {t : TickUnit} (h : t.Running w) :
    (takeInterrupt w t).Running w ∧ (takeInterrupt w t).eventsLeft ≤ t.eventsLeft - 1 := by
  rcases takeInterrupt_cases w t with ⟨_, he⟩ | ⟨hne, he⟩ <;> rw [he]
  · exact ⟨.inl rfl, Nat.zero_le _⟩
  · rcases h with hp | ⟨h0, hfits⟩
    · exact ⟨.inl hp, by simp [TickUnit.eventsLeft, hp]⟩
    · have hpred := narrow_pred hw h0 hfits
      refine ⟨.inr ⟨hne, hpred.trans_lt (by omega)⟩, ?_⟩
      cases hp : t.tickPending
      · simpa [TickUnit.eventsLeft, hp] using hpred.le
      · simp [TickUnit.eventsLeft, hp]

/-- The host waits with the timer armed. -/
structure Waiting (w : Nat) (s : State) : Prop where
  width : s.params.wCnt = w
  polling : s.host.pc = .poll
  armed : s.tick.armed = true
  running : s.tick.Running w

section
variable {w : Nat} (hw : w ≤ 32)
include hw

/-- A step of an agent finds the tick, or the wait goes on, no further from its end. -/
theorem Waiting.agentStep {s t : State} (hs : Waiting w s) (h : AgentStep s t) :
    t.host.pc = .ack ∨ Waiting w t ∧ t.tick.eventsLeft ≤ s.tick.eventsLeft := by
  obtain ⟨hwidth, hpc, harmed, hrun⟩ := hs
  rcases h.of_polling hpc with ⟨_, hack⟩ | ⟨hhost, hparams, htick⟩
  · exact .inl hack
  · refine .inr ?_
    have hwidth' : t.params.wCnt = w := by rw [hparams, hwidth]
    have hpc' : t.host.pc = .poll := by rw [hhost, hpc]
    rcases htick with htick | ⟨_, htick⟩
    · exact ⟨⟨hwidth', hpc', htick ▸ harmed, htick ▸ hrun⟩, htick ▸ Nat.le_refl _⟩
    · obtain ⟨hrun', hleft⟩ := hrun.takeInterrupt hw
      rw [hwidth] at htick
      rw [htick]
      exact ⟨⟨hwidth', hpc', by rw [htick, takeInterrupt_armed, harmed], htick ▸ hrun'⟩, by omega⟩

variable {r : Run} {n : Nat} (hagents : r.ByAgents n) (hstart : Waiting w (r.states n))
  (hnever : ∀ m, n < m → (r.states m).host.pc ≠ .ack)
include hagents hstart hnever

/-- A host that never comes to its `ACK` waits at every later place. -/
theorem Run.waiting {m : Nat} (hm : n ≤ m) : Waiting w (r.states m) := by
  induction m, hm using Nat.le_induction with
  | base => exact hstart
  | succ m hm ih =>
    rcases ih.agentStep hw (Run.agentStep hagents hm) with hack | ⟨hwait, _⟩
    · exact absurd hack (hnever (m + 1) (by omega))
    · exact hwait

/-- Meanwhile the tick never gets further away. -/
theorem Run.eventsLeft_le {m k : Nat} (hm : n ≤ m) (hk : m ≤ k) :
    (r.states k).tick.eventsLeft ≤ (r.states m).tick.eventsLeft := by
  induction k, hk using Nat.le_induction with
  | base => exact Nat.le_refl _
  | succ k hk ih =>
    have hwait := Run.waiting hw hagents hstart hnever (hm.trans hk)
    rcases hwait.agentStep hw (Run.agentStep hagents (hm.trans hk)) with hack | ⟨_, hleft⟩
    · exact absurd hack (hnever (k + 1) (by omega))
    · exact hleft.trans ih

/-- Fairness brings compare events until the tick is there. -/
theorem Run.exists_eventsLeft_eq_zero (hfair : r.FairTick) (d : Nat) {m : Nat} (hm : n ≤ m)
    (hd : (r.states m).tick.eventsLeft ≤ d) : ∃ k, n ≤ k ∧ (r.states k).tick.eventsLeft = 0 := by
  induction d generalizing m with
  | zero => exact ⟨m, hm, Nat.le_zero.mp hd⟩
  | succ d ih =>
    obtain ⟨k, hk, htakes⟩ := hfair m fun k hk => (Run.waiting hw hagents hstart hnever (hm.trans hk)).armed
    have hwait := Run.waiting hw hagents hstart hnever (hm.trans hk)
    obtain ⟨_, hnext⟩ := execCmpEvent_next (Run.takes_exec htakes)
    have hbefore := Run.eventsLeft_le hw hagents hstart hnever hm hk
    have hafter := (hwait.running.takeInterrupt hw).2
    refine ih (m := k + 1) (by omega) ?_
    rw [hnext]
    dsimp only
    rw [hwait.width]
    omega

end

/-- Settles O51: the two turns of a pending tick; and a host that never came to its `ACK` would wait until the tick is
there, and then take the turn that finds it. -/
theorem waitTickConsumesThePendingTick : Obligations.WaitTickConsumesThePendingTick := by
  constructor
  · intro s hpc hp
    exact ⟨_, hostTurns_cons (hostTurn_poll_of_pending hpc hp) (hostTurns_cons (hostTurn_ack rfl) rfl), rfl, rfl⟩
  · intro r n hfair hrecurs hagents hw hfits h0 harmed hpc
    by_contra hnone
    have hnever : ∀ m, n < m → (r.states m).host.pc ≠ .ack := fun m hm hack => hnone ⟨m, hm, hack⟩
    have hstart : Waiting (r.states n).params.wCnt (r.states n) := ⟨rfl, hpc, harmed, .inr ⟨h0, hfits⟩⟩
    obtain ⟨k, hk, hzero⟩ :=
      Run.exists_eventsLeft_eq_zero hw hagents hstart hnever hfair _ (Nat.le_refl n) (Nat.le_refl _)
    obtain ⟨m, hm, hslot⟩ := hrecurs k
    have hwait := Run.waiting hw hagents hstart hnever (hk.trans hm)
    have hleft := Run.eventsLeft_le hw hagents hstart hnever hk hm
    have hp := hwait.running.pending_of_eventsLeft_eq_zero (by omega)
    have hturn := (hostTurn_poll_of_pending hwait.polling hp).symm.trans (Run.turn hslot)
    exact hnever (m + 1) (by omega) (by rw [← Host.Outcome.next.inj hturn])

end Sys2Proof.Machine
end

section
/-! PROOFS. Two nodes and the channel (60_exceptions.md R275): what the channel asks at each arrival holds at every place
of a run of the pair, since the sender's log only grows. -/

namespace Sys2Proof.Machine

/-- No operation takes back a byte sent (R35). -/
theorem Effect.txLog_prefix {i : Instr} {s t : State} (e : Effect s i t) : s.link.txLog <+: t.link.txLog := by
  cases e with
  | sent => exact List.prefix_append _ _
  | received => dsimp only; split <;> exact List.prefix_refl _
  | _ => exact List.prefix_refl _

theorem step_txLog_prefix {s t : State} (h : step s = .next t) : s.link.txLog <+: t.link.txLog := by
  obtain ⟨u, g, rfl, ⟨i, e⟩ | ⟨pin, rfl⟩ | rfl⟩ := step_block h
  · exact e.txLog_prefix
  · exact List.prefix_refl _
  · exact List.prefix_refl _

theorem sublist_of_isSubsequence : ∀ {xs ys : List Byte}, isSubsequence xs ys = true → xs.Sublist ys
  | [], ys, _ => List.nil_sublist ys
  | _ :: _, [], h => nomatch h
  | x :: xs, y :: ys, h => by
    rw [isSubsequence] at h
    split at h
    · rename_i heq
      exact heq ▸ (sublist_of_isSubsequence h).cons_cons x
    · exact (sublist_of_isSubsequence h).cons y

/-- What the channel asks of the bytes arrived and sent: asked at every arrival, and never undone by sending more, so it
holds at every place of a run. -/
theorem pairRun_relates {c : Channel} {R : List Byte → List Byte → Prop}
    (hadmits : ∀ sent arrived, c.admits sent arrived = true → R arrived sent)
    (hgrows : ∀ arrived sent sent', R arrived sent → sent <+: sent' → R arrived sent')
    {turns : List Turn} {n m : NodePair} (hn : R n.arrived n.sender.link.txLog)
    (h : pairRun c turns n = some m) : R m.arrived m.sender.link.txLog := by
  induction turns generalizing n with
  | nil => cases h; exact hn
  | cons who rest ih =>
    obtain ⟨k, hk, hrest⟩ := Option.bind_eq_some_iff.mp h
    refine ih ?_ hrest
    cases who with
    | sender =>
      simp only [pairStep] at hk
      split at hk
      · cases hk
        rename_i hstep
        exact hgrows _ _ _ hn (step_txLog_prefix hstep)
      · cases hk
    | display =>
      simp only [pairStep] at hk
      split at hk
      · split at hk
        · cases hk
          rename_i hadm
          exact hadmits _ _ hadm
        · cases hk
      · cases hk

/-- Settles O60: before anything has arrived the channel's relation holds, so it does at every place; the end of a whole
run adds that all has arrived. -/
theorem idealChannelDeliversWhatWasSent : Obligations.IdealChannelDeliversWhatWasSent := by
  intro turns n m hnone
  refine ⟨fun h => ?_, fun h => ?_, fun h => ?_⟩
  · exact pairRun_relates (c := .ideal) (R := (· <+: ·)) (fun _ _ => List.isPrefixOf_iff_prefix.mp)
      (fun _ _ _ => List.IsPrefix.trans) (hnone ▸ List.nil_prefix) h
  · obtain ⟨_, hend⟩ := Option.filter_eq_some_iff.mp h
    obtain ⟨_, hall⟩ := Bool.and_eq_true_iff.mp hend
    exact eq_of_beq hall
  · exact pairRun_relates (c := .lossy) (R := List.Sublist) (fun _ _ => sublist_of_isSubsequence)
      (fun _ _ _ hsub hpre => hsub.trans hpre.sublist) (hnone ▸ List.nil_sublist _) h

end Sys2Proof.Machine
end

section
/-! PROOFS. The host's tasks (44_host_scheduler_fsm.md sections 2 and 3): one task's tick and the firing law, the turns of
the two actions and of `RECEIVE_FRAME`, one lemma per turn, and the statements settled from that. -/

namespace Sys2Proof.Machine

/-! ## One task (R234, R236) -/

/-- The sum kept to its width is the one value of the container that equals it. -/
theorem accumulate_eq {w : Nat} (hw : w ≤ 32) {inc sum : Count} {t : Task}
    (hsum : sum.toNat = (t.elapsed.toNat + inc.toNat) % 2 ^ w) : accumulate w inc t = { t with elapsed := sum } := by
  rw [accumulate, BitVec.eq_of_toNat_eq ((narrow_add_toNat hw t.elapsed inc).trans hsum.symm)]

/-- A task's tick from the sum: due or not. -/
theorem taskTick_eq {w : Nat} (hw : w ≤ 32) {inc sum : Count} {t : Task}
    (hsum : sum.toNat = (t.elapsed.toNat + inc.toNat) % 2 ^ w) :
    taskTick w inc t =
      if t.periodTicks.toNat ≤ sum.toNat then ({ t with elapsed := 0 }, true) else ({ t with elapsed := sum }, false) := by
  rw [taskTick, accumulate_eq hw hsum]
  simp only [isDue, restart, decide_eq_true_eq]

/-- Settles O53: the sum is the narrowed one. -/
theorem taskAccumulatesAndResets : Obligations.TaskAccumulatesAndResets := by
  intro w inc t hw
  have hsum := narrow_add_toNat hw t.elapsed inc
  exact ⟨_, hsum, taskTick_eq hw hsum⟩

/-- The number of ticks between two firings: the period in increments, rounded up, and at least one (R236). -/
def ticksPerFiring (period inc : Nat) : Nat := max 1 ((period + inc - 1) / inc)

section
variable {period inc : Nat} (hinc : 0 < inc)
include hinc

/-- Some increments reach the period exactly when they are as many as a firing takes. -/
theorem le_mul_iff_ticksPerFiring_le {m : Nat} (hm : 0 < m) : period ≤ m * inc ↔ ticksPerFiring period inc ≤ m := by
  rw [ticksPerFiring, max_le_iff, Nat.div_le_iff_le_mul_add_pred hinc, Nat.mul_comm m inc]
  omega

/-- Until a firing the sum fits the width. -/
theorem add_lt_of_lt_ticksPerFiring {r bound : Nat} (hr : r < ticksPerFiring period inc) (hfit : inc < bound)
    (hle : period + inc ≤ bound) : r * inc + inc < bound := by
  rcases Nat.eq_zero_or_pos r with rfl | hpos
  · omega
  · have hbelow := mt (le_mul_iff_ticksPerFiring_le hinc hpos).mp (Nat.not_le.mpr hr)
    omega

end

/-- A tick after which the firing comes round, and one after which it does not. -/
theorem succ_div_mod {n K : Nat} (hK : 0 < K) :
    (n % K + 1 = K ∧ (n + 1) / K = n / K + 1 ∧ (n + 1) % K = 0) ∨
    (n % K + 1 < K ∧ (n + 1) / K = n / K ∧ (n + 1) % K = n % K + 1) := by
  have hn := Nat.div_add_mod n K
  rcases Nat.lt_or_eq_of_le (Nat.mod_lt n hK) with hlt | heq
  · obtain ⟨hdiv, hmod⟩ := (Nat.div_mod_unique hK).mpr ⟨show n % K + 1 + K * (n / K) = n + 1 by omega, hlt⟩
    exact .inr ⟨hlt, hdiv, hmod⟩
  · have hfull : 0 + K * (n / K + 1) = n + 1 := by rw [Nat.mul_add]; omega
    obtain ⟨hdiv, hmod⟩ := (Nat.div_mod_unique hK).mpr ⟨hfull, hK⟩
    exact .inl ⟨heq, hdiv, hmod⟩

section
variable {w : Nat} {inc : Count} {t : Task} (hw : w ≤ 32) (hpos : 0 < inc.toNat) (hfit : inc.toNat < 2 ^ w)
  (hle : t.periodTicks.toNat + inc.toNat ≤ 2 ^ w)
include hw hpos hfit hle

/-- One tick of a task `r` increments into a firing. -/
theorem taskTick_of_lt {r : Nat} (hr : r < ticksPerFiring t.periodTicks.toNat inc.toNat)
    (helapsed : t.elapsed.toNat = r * inc.toNat) :
    ∃ sum : Count, sum.toNat = (r + 1) * inc.toNat ∧ taskTick w inc t =
      if r + 1 = ticksPerFiring t.periodTicks.toNat inc.toNat then ({ t with elapsed := 0 }, true)
      else ({ t with elapsed := sum }, false) := by
  have hsum : (narrow w (t.elapsed + inc)).toNat = (r + 1) * inc.toNat := by
    rw [narrow_add_toNat hw, helapsed, Nat.mod_eq_of_lt (add_lt_of_lt_ticksPerFiring hpos hr hfit hle), Nat.succ_mul]
  have hdue : t.periodTicks.toNat ≤ (narrow w (t.elapsed + inc)).toNat ↔
      r + 1 = ticksPerFiring t.periodTicks.toNat inc.toNat := by
    rw [hsum, le_mul_iff_ticksPerFiring_le hpos r.succ_pos]
    omega
  refine ⟨_, hsum, ?_⟩
  rw [taskTick_eq hw (narrow_add_toNat hw _ _)]
  exact if_congr hdue rfl rfl

/-- A task from zero after some ticks: how often it has fired, and how far it is into the next firing. -/
theorem taskTicks_from_zero (h0 : t.elapsed = 0) (n : Nat) :
    (taskTicks w inc n t).2 = n / ticksPerFiring t.periodTicks.toNat inc.toNat ∧
    (taskTicks w inc n t).1.elapsed.toNat = n % ticksPerFiring t.periodTicks.toNat inc.toNat * inc.toNat ∧
    (taskTicks w inc n t).1.periodTicks = t.periodTicks := by
  have hK : 0 < ticksPerFiring t.periodTicks.toNat inc.toNat := Nat.lt_of_lt_of_le Nat.one_pos (Nat.le_max_left _ _)
  induction n with
  | zero => simp [taskTicks, h0]
  | succ n ih =>
    obtain ⟨hfired, helapsed, hperiod⟩ := ih
    rw [← hperiod] at hle hK hfired helapsed ⊢
    obtain ⟨sum, hsum, htick⟩ := taskTick_of_lt hw hpos hfit hle (Nat.mod_lt n hK) helapsed
    simp only [taskTicks, htick, hfired]
    rcases succ_div_mod (n := n) hK with ⟨hfull, hdiv, hmod⟩ | ⟨hlt, hdiv, hmod⟩
    · simp [hfull, hdiv, hmod]
    · simp [hlt.ne, hdiv, hmod, hsum]

end

/-- Settles O54: `n` ticks are `n / K` firings and `n % K` increments. -/
theorem taskFiringLaw : Obligations.TaskFiringLaw := by
  intro w inc t n hw hpos hfit h0 hle
  obtain ⟨hfired, helapsed, _⟩ := taskTicks_from_zero hw hpos hfit hle h0 n
  exact ⟨hfired, helapsed⟩

/-! ## The host's turns at a task -/

/-- At a task the host computes (R233). -/
theorem hostTurn_task {s : State} {k : Nat} (hpc : s.host.pc = .task k) :
    hostTurn s = .next { s with host := taskTurn s.params k s.host } := by
  have hissue : hostIssue s.params s.host = none := by rw [hostIssue, hpc]
  simp only [hostTurn_of_compute hissue, hostCompute, hpc]

section
variable {p : Params} {k : Nat} {h : HostAgent} {t : Task} {sum : Count} (hk : h.tasks[k]? = some t)
  (hw : p.wElapsed ≤ 32) (hsum : sum.toNat = (t.elapsed.toNat + p.tickInc.toNat) % 2 ^ p.wElapsed)
include hk hw hsum

/-- A task that is not due accumulates (R234). -/
theorem taskTurn_of_not_due (hlt : sum.toNat < t.periodTicks.toNat) :
    taskTurn p k h = { h with tasks := h.tasks.set k { t with elapsed := sum }, pc := .task (k + 1) } := by
  simp [taskTurn, hk, accumulate_eq hw hsum, isDue, hlt]

end

/-- At a task that is due the host starts the action, with the increment added (R234). -/
theorem hostTurn_task_of_due {s : State} {k : Nat} {t : Task} (hpc : s.host.pc = .task k)
    (hk : s.host.tasks[k]? = some t) (hw : s.params.wElapsed ≤ 32)
    (hle : t.periodTicks.toNat ≤ (t.elapsed.toNat + s.params.tickInc.toNat) % 2 ^ s.params.wElapsed) :
    hostTurn s = .next { s with host := startAction s.params k t.action { s.host with
      tasks := s.host.tasks.set k (accumulate s.params.wElapsed s.params.tickInc t) } } := by
  have hdue : isDue (accumulate s.params.wElapsed s.params.tickInc t) = true := by
    rw [isDue, accumulate, narrow_add_toNat hw]
    exact decide_eq_true hle
  rw [hostTurn_task hpc]
  simp only [taskTurn, hk, hdue, if_true]

/-- The end of the action leaves nothing of the increment (R234). -/
theorem set_accumulate_modify_restart (tasks : List Task) (k w : Nat) (inc : Count) (t : Task) :
    (tasks.set k (accumulate w inc t)).modify k restart = tasks.set k { t with elapsed := 0 } := by
  rw [set_modify_restart, restart_accumulate]

/-- Settles O55: the turn at a task that is not due. -/
theorem taskNotDueOnlyAccumulates : Obligations.TaskNotDueOnlyAccumulates := by
  intro s k t sum hw hpc hk hsum hlt
  rw [hostTurn_task hpc, taskTurn_of_not_due hk hw hsum hlt]

/-! ## The turns of the actions -/

section
variable {s : State} {k : Nat}

/-- A host about to sample hands the two answers of the script to the decoder (R245). -/
theorem hostTurn_sampleStick {x y : Sample} {xs : List Sample} (hpc : s.host.pc = .sampleStick k)
    (hadc : s.oracles.adc.script = x :: y :: xs) :
    hostTurn s = .next { s with
      oracles := { s.oracles with adc := { script := xs, used := s.oracles.adc.used + 2 } }
      answer := .direction (classify x y)
      host := { s.host with pc := .readPin k (classify x y) } } := by
  have hissue : hostIssue s.params s.host = some .sampleDir := by rw [hostIssue, hpc]
  rw [hostTurn_of_exec hissue (exec_sampleDir_of_script hadc)]
  simp only [hostAbsorb, hpc]

/-- The button's level is compared with the active one (R246). -/
theorem hostTurn_readPin {d : Direction} {level : Bool} {ls : List Bool} (hpc : s.host.pc = .readPin k d)
    (hpin : s.oracles.pin.script = level :: ls) :
    hostTurn s = .next { s with
      oracles := { s.oracles with pin := { script := ls, used := s.oracles.pin.used + 1 } }
      host := { s.host with pc := .pack k d (level == s.params.btnActive) } } := by
  have hissue : hostIssue s.params s.host = none := by rw [hostIssue, hpc]
  simp only [hostTurn_of_compute hissue, hostCompute, hpc, pinRead, drawFrom_of_script _ hpin]

theorem hostTurn_pack {d : Direction} {f : Bool} (hpc : s.host.pc = .pack k d f) :
    hostTurn s = .next { s with
      answer := .frame (packFrame d f), host := { s.host with pc := .transmit k (packFrame d f) } } := by
  have hissue : hostIssue s.params s.host = some (.encode d f) := by rw [hostIssue, hpc]
  rw [hostTurn_of_exec hissue (exec_eq_next_iff.mpr .encode)]
  simp only [hostAbsorb, hpc, State.hand]

/-- The last turn of the sending action: a ready transmitter takes the frame, a busy one drops it (R199). -/
theorem hostTurn_transmit {frame : Byte} (hpc : s.host.pc = .transmit k frame) :
    hostTurn s = .next { s with
      link := if s.link.txReady = true then takeForTransmit frame s.link else s.link
      answer := .sent s.link.txReady
      host := endAction k s.host } := by
  have hissue : hostIssue s.params s.host = some (.trySend frame) := by rw [hostIssue, hpc]
  cases hready : s.link.txReady with
  | true =>
    rw [hostTurn_of_exec hissue (exec_trySend_of_ready hready frame)]
    simp only [hostAbsorb, hpc, if_true]
  | false =>
    rw [hostTurn_of_exec hissue (exec_trySend_of_busy hready frame)]
    simp only [hostAbsorb, hpc, State.hand, Bool.false_eq_true, if_false]

/-- A display node fed by its own axes takes the new sample as its input and ticks its machine (R247). -/
theorem hostTurn_sampleDisplay {x y : Sample} {xs : List Sample} (hpc : s.host.pc = .sampleDisplay k)
    (hadc : s.oracles.adc.script = x :: y :: xs) :
    hostTurn s = .next { s with
      oracles := { s.oracles with adc := { script := xs, used := s.oracles.adc.used + 2 } }
      answer := .direction (classify x y)
      host := directionAction s.params k { s.host with lastIn := classify x y } } := by
  have hissue : hostIssue s.params s.host = some .sampleDir := by rw [hostIssue, hpc]
  rw [hostTurn_of_exec hissue (exec_sampleDir_of_script hadc)]
  simp only [hostAbsorb, hpc]

/-- The last turn of the Direction action shows the pattern (R243). -/
theorem hostTurn_display (hpc : s.host.pc = .display k) :
    hostTurn s = .next { s with
      shout := { port := 0x00, portLog := s.shout.portLog ++ sendMasks s.params s.host.pat }
      chip := (portRun s.params (sendMasks s.params s.host.pat) (s.shout.port, s.chip)).2
      answer := .nothing
      host := endAction k s.host } := by
  have hissue : hostIssue s.params s.host = some (.send s.host.pat) := by rw [hostIssue, hpc]
  rw [hostTurn_of_exec hissue (exec_send s s.host.pat)]
  simp only [hostAbsorb, hpc]

end

/-! ## The Stick/Link action (R244, R245) -/

/-- The four turns of the sending action. -/
theorem hostTurns_stick_action {s : State} {k : Nat} {x y : Sample} {level : Bool} {xs : List Sample} {ls : List Bool}
    (hpc : s.host.pc = .sampleStick k) (hadc : s.oracles.adc.script = x :: y :: xs)
    (hpin : s.oracles.pin.script = level :: ls) :
    hostTurns 4 s = .next { s with
      oracles := { s.oracles with
        adc := { script := xs, used := s.oracles.adc.used + 2 }
        pin := { script := ls, used := s.oracles.pin.used + 1 } }
      answer := .sent s.link.txReady
      link := if s.link.txReady = true then
        takeForTransmit (packFrame (classify x y) (level == s.params.btnActive)) s.link else s.link
      host := endAction k s.host } :=
  hostTurns_cons (hostTurn_sampleStick hpc hadc) (hostTurns_cons (hostTurn_readPin rfl hpin)
    (hostTurns_cons (hostTurn_pack rfl) (hostTurns_cons (hostTurn_transmit rfl) rfl)))

/-- The Stick/Link machine is in `running` from its first tick on, and there its output sends (R244). -/
theorem startAction_stickLink (p : Params) (k : Nat) (h : HostAgent) :
    startAction p k .stickLink h = { h with stickState := .running, pc := .sampleStick k } := by
  rw [startAction, fsmTick]
  cases h.stickState <;> rfl

/-- Settles O58: the turn at the due task starts the action, whose four turns follow. -/
theorem senderActionSendsOneFrame : Obligations.SenderActionSendsOneFrame := by
  constructor
  · intro s k task x y level xs ls hpc hk haction hw hle hadc hpin
    have hstart := hostTurn_task_of_due hpc hk hw hle
    rw [haction, startAction_stickLink] at hstart
    refine ⟨_, _, rfl, hostTurns_cons hstart (hostTurns_stick_action rfl hadc hpin), rfl, rfl, ?_, rfl⟩
    rw [← set_accumulate_modify_restart]
    rfl
  · intro s k x y level xs ls hpc hadc hpin
    exact ⟨_, _, rfl, hostTurns_stick_action hpc hadc hpin, rfl, rfl, rfl, rfl⟩

/-! ## The Direction action (R240 to R243) -/

/-- A case the table does not match stays in its state (R241). -/
theorem dirNext_of_unmatched {table : List DirEdge} {st : DirState} {input : Direction}
    (h : ∀ e ∈ table, ¬(e.source = st ∧ e.input = input)) : dirNext table st input = st := by
  have hnone : table.find? (fun e => e.source == st && e.input == input) = none := by
    rw [List.find?_eq_none]
    intro e he
    simpa using h e he
  rw [dirNext, hnone]

/-- Settles O57: the turn at the due task ticks the machine, after a sample where the node has its own axes, and the next
shows the pattern and ends the action. -/
theorem directionTaskTicksInTwoPhases : Obligations.DirectionTaskTicksInTwoPhases := by
  constructor
  · intro s k t hpc hk haction hrole hw hle
    have hstart := hostTurn_task_of_due hpc hk hw hle
    simp only [startAction, haction, hrole] at hstart
    refine ⟨_, _, hstart, rfl, rfl, rfl, dirNext_of_unmatched, hostTurn_display rfl, ?_, rfl, rfl, rfl⟩
    rw [← set_accumulate_modify_restart]
    rfl
  · intro s k t x y rest hpc hk haction hrole hw hadc hle
    have hstart := hostTurn_task_of_due hpc hk hw hle
    simp only [startAction, haction, hrole] at hstart
    refine ⟨_, hostTurns_cons hstart (hostTurns_cons (hostTurn_sampleDisplay rfl hadc)
      (hostTurns_cons (hostTurn_display rfl) rfl)), rfl, rfl, rfl, ?_, rfl, rfl, rfl, rfl⟩
    exact set_accumulate_modify_restart ..

/-! ## `RECEIVE_FRAME` (R94, R206) -/

section
variable {s : State}

theorem hostTurn_service_of_empty (hpc : s.host.pc = .service) (hempty : s.link.rxFull = false) :
    hostTurn s = .next { s with host := { s.host with pc := .poll }, answer := .received none } := by
  have hissue : hostIssue s.params s.host = some .tryReceive := by rw [hostIssue, hpc]
  rw [hostTurn_of_exec hissue (exec_eq_next_iff.mpr (.nothingReceived hempty))]
  simp only [hostAbsorb, hpc, State.hand]

theorem hostTurn_service_of_full (hpc : s.host.pc = .service) (hfull : s.link.rxFull = true) :
    hostTurn s = .next { s with
      link := if s.params.rxReadClears then clearRxFull s.link else s.link
      answer := .received (some s.link.rxData)
      host := { s.host with pc := .flush s.link.rxData } } := by
  have hissue : hostIssue s.params s.host = some .tryReceive := by rw [hostIssue, hpc]
  rw [hostTurn_of_exec hissue (exec_eq_next_iff.mpr (.received hfull))]
  simp only [hostAbsorb, hpc]

theorem hostTurn_flush {b : Byte} (hpc : s.host.pc = .flush b) :
    hostTurn s = .next { s with
      link := clearRxFull s.link, answer := .nothing, host := { s.host with pc := .unpack b } } := by
  have hissue : hostIssue s.params s.host = some .flush := by rw [hostIssue, hpc]
  rw [hostTurn_of_exec hissue (exec_eq_next_iff.mpr .flush)]
  simp only [hostAbsorb, hpc]

/-- A byte that is no frame leaves the latest input (R196). -/
theorem hostTurn_unpack {b : Byte} (hpc : s.host.pc = .unpack b) :
    hostTurn s = .next { s with
      answer := .decoded (frameDirection b) (frameFlag b) (frameValid b)
      host := { s.host with
        pc := .poll, lastIn := if frameValid b = true then frameDirection b else s.host.lastIn } } := by
  have hissue : hostIssue s.params s.host = some (.decode b) := by rw [hostIssue, hpc]
  rw [hostTurn_of_exec hissue (exec_eq_next_iff.mpr .decode)]
  cases hv : frameValid b <;> simp [hostAbsorb, hpc, State.hand]

end

/-- Settles O59: reading and flushing leave the slot empty either way, and the byte read is the one decoded. -/
theorem receiveFrameTakesTheNewestInput : Obligations.ReceiveFrameTakesTheNewestInput := by
  refine ⟨fun s hpc hfull => ?_, fun s hpc hempty => hostTurn_service_of_empty hpc hempty⟩
  refine ⟨_, hostTurns_cons (hostTurn_service_of_full hpc hfull) (hostTurns_cons (hostTurn_flush rfl)
    (hostTurns_cons (hostTurn_unpack rfl) rfl)), rfl, ?_, rfl⟩
  dsimp only
  split <;> rfl

end Sys2Proof.Machine
end
